-- ==== Sys2Proof/Word.lean ====
section
/-! DEFINITION. The machine's words (00_scope.md R11) and the four-register array X[0..3] that KEY, DIN, DOUT and
STATE are (00_scope.md R15). The byte order inside them is Machine/Operands.lean's. -/

namespace Sys2Proof

/-- A byte `b[7:0]` (00_scope.md R11). -/
abbrev Byte := BitVec 8

/-- A 32-bit word `w[31:0]` (00_scope.md R11). -/
abbrev Word := BitVec 32

/-- A four-register array `X[0..3]`: sixteen bytes in four 32-bit registers (00_scope.md R15). -/
structure Block where
  w0 : Word
  w1 : Word
  w2 : Word
  w3 : Word
deriving DecidableEq, Repr

/-- The array whose four registers are zero. -/
def Block.zero : Block := ⟨0#32, 0#32, 0#32, 0#32⟩

end Sys2Proof
end

