-- ==== Sys2Proof/Syntax.lean ====
section
/-! DEFINITION. The commands of AES128-CORE: one constructor per row of spec/opcode_table.json (30_encoding.md R82).
Every other operand of a command is a fixed register (30_encoding.md R86). -/

namespace Sys2Proof

/-- A command. `len` is the LEN field and `rnd` the RND field of 30_encoding.md R81. -/
inductive Instr where
  /-- NOP (40_command_issue.md R107). -/
  | nop
  /-- EXPAND_KEY len (42_key_schedule.md R144). -/
  | expandKey (len : BitVec 5)
  /-- ENCRYPT_BLOCK len (44_block_cipher.md R201). -/
  | encryptBlock (len : BitVec 5)
  /-- LOAD_STATE len (43_round_transform.md R165). -/
  | loadState (len : BitVec 5)
  /-- STORE_STATE (43_round_transform.md R166). -/
  | storeState
  /-- SUB_BYTES (43_round_transform.md R167). -/
  | subBytes
  /-- SHIFT_ROWS (43_round_transform.md R168). -/
  | shiftRows
  /-- MIX_COLUMNS (43_round_transform.md R169). -/
  | mixColumns
  /-- ADD_ROUND_KEY rnd (43_round_transform.md R170). -/
  | addRoundKey (rnd : BitVec 4)
  /-- ROUND rnd (43_round_transform.md R171). -/
  | round (rnd : BitVec 4)
  /-- GF_MUL (41_galois_field.md R130). -/
  | gfMul
  /-- PAD len (45_padding.md R222). -/
  | pad (len : BitVec 5)
deriving DecidableEq, Repr

end Sys2Proof
end

