-- ==== Sys2Proof/WellFormed.lean ====
section
/-! DEFINITION. Which commands are well formed: those some CMD word decodes to (30_encoding.md R83). LEN is decoded as
any value and checked by the command's own rule, so every LEN is well formed; RND is 0..10. -/

namespace Sys2Proof

/-- The round index is one of 0..10 (30_encoding.md R83: "0..10; 11..15 is ILLEGAL_COMMAND"). -/
def roundIndexOk (rnd : BitVec 4) : Bool := decide (rnd.toNat ≤ 10)

/-- The field constraints of 30_encoding.md R83 that are part of the decode. -/
def Instr.wf : Instr → Bool
  | .nop => true
  | .expandKey _ => true
  | .encryptBlock _ => true
  | .loadState _ => true
  | .storeState => true
  | .subBytes => true
  | .shiftRows => true
  | .mixColumns => true
  | .addRoundKey rnd => roundIndexOk rnd
  | .round rnd => roundIndexOk rnd
  | .gfMul => true
  | .pad _ => true

/-- `i` is well formed. -/
abbrev WellFormed (i : Instr) : Prop := i.wf = true

end Sys2Proof
end

