-- ==== Sys2Proof/Decode.lean ====
section
/-! DEFINITION. The CMD32 format (30_encoding.md R80, R81): the total decoder of R84, the encoder of R91, and the
assembler's operand rule of R91. The names of the reasons in `Illegal` are the model's own (log 14): the machine treats
every one of them as ILLEGAL (R84). -/

namespace Sys2Proof

/-- Why a CMD word is ILLEGAL (30_encoding.md R83, R84, R87, R88). -/
inductive Illegal where
  /-- RSV0, RSV1 or RSV2 is not 0 (R88). -/
  | reservedBits
  /-- RND is not 0 where R83 says "must be 0". -/
  | rndNotZero
  /-- LEN is not 0 where R83 says "must be 0". -/
  | lenNotZero
  /-- RND is 11..15 for ADD_ROUND_KEY or ROUND (R83). -/
  | rndOutOfRange
  /-- OP is one of 0x0C..0x1F (R87). -/
  | reservedOpcode
deriving DecidableEq, Repr

/-- Field OP, bits 4:0 (30_encoding.md R81). -/
def opField (v : Word) : BitVec 5 := v.extractLsb' 0 5
/-- Field RSV0, bits 7:5 (30_encoding.md R81). -/
def rsv0Field (v : Word) : BitVec 3 := v.extractLsb' 5 3
/-- Field RND, bits 11:8 (30_encoding.md R81). -/
def rndField (v : Word) : BitVec 4 := v.extractLsb' 8 4
/-- Field RSV1, bits 15:12 (30_encoding.md R81). -/
def rsv1Field (v : Word) : BitVec 4 := v.extractLsb' 12 4
/-- Field LEN, bits 20:16 (30_encoding.md R81). -/
def lenField (v : Word) : BitVec 5 := v.extractLsb' 16 5
/-- Field RSV2, bits 31:21 (30_encoding.md R81). -/
def rsv2Field (v : Word) : BitVec 11 := v.extractLsb' 21 11

/-- A command whose RND and LEN must be 0 (30_encoding.md R83). -/
def decodePlain (i : Instr) (rnd : BitVec 4) (len : BitVec 5) : Except Illegal Instr :=
  if rnd ≠ 0#4 then .error .rndNotZero else if len ≠ 0#5 then .error .lenNotZero else .ok i

/-- A command with a LEN operand, whose RND must be 0 (30_encoding.md R83). -/
def decodeLen (f : BitVec 5 → Instr) (rnd : BitVec 4) (len : BitVec 5) : Except Illegal Instr :=
  if rnd ≠ 0#4 then .error .rndNotZero else .ok (f len)

/-- A command with an RND operand 0..10, whose LEN must be 0 (30_encoding.md R83). -/
def decodeRnd (f : BitVec 4 → Instr) (rnd : BitVec 4) (len : BitVec 5) : Except Illegal Instr :=
  if len ≠ 0#5 then .error .lenNotZero else if roundIndexOk rnd then .ok (f rnd) else .error .rndOutOfRange

/-- The case of 30_encoding.md R84 on the opcode, once the reserved fields are 0. -/
def decodeOp (op : BitVec 5) (rnd : BitVec 4) (len : BitVec 5) : Except Illegal Instr :=
  match op.toNat with
  | 0x00 => decodePlain .nop rnd len
  | 0x01 => decodeLen .expandKey rnd len
  | 0x02 => decodeLen .encryptBlock rnd len
  | 0x03 => decodeLen .loadState rnd len
  | 0x04 => decodePlain .storeState rnd len
  | 0x05 => decodePlain .subBytes rnd len
  | 0x06 => decodePlain .shiftRows rnd len
  | 0x07 => decodePlain .mixColumns rnd len
  | 0x08 => decodeRnd .addRoundKey rnd len
  | 0x09 => decodeRnd .round rnd len
  | 0x0A => decodePlain .gfMul rnd len
  | 0x0B => decodeLen .pad rnd len
  | _ => .error .reservedOpcode

/-- `decode(v[31:0]) -> Op | ILLEGAL`, total on any 32-bit word (30_encoding.md R84). -/
def decode (v : Word) : Except Illegal Instr :=
  if rsv0Field v ≠ 0#3 ∨ rsv1Field v ≠ 0#4 ∨ rsv2Field v ≠ 0#11 then .error .reservedBits
  else decodeOp (opField v) (rndField v) (lenField v)

/-- The OP value of a command (30_encoding.md R82). -/
def Instr.opcode : Instr → BitVec 5
  | .nop => 0x00#5
  | .expandKey _ => 0x01#5
  | .encryptBlock _ => 0x02#5
  | .loadState _ => 0x03#5
  | .storeState => 0x04#5
  | .subBytes => 0x05#5
  | .shiftRows => 0x06#5
  | .mixColumns => 0x07#5
  | .addRoundKey _ => 0x08#5
  | .round _ => 0x09#5
  | .gfMul => 0x0A#5
  | .pad _ => 0x0B#5

/-- The RND field of a command's word, 0 where it has no RND operand (30_encoding.md R83). -/
def Instr.rndOf : Instr → BitVec 4
  | .addRoundKey rnd => rnd
  | .round rnd => rnd
  | .nop | .expandKey _ | .encryptBlock _ | .loadState _ | .storeState | .subBytes | .shiftRows | .mixColumns
  | .gfMul | .pad _ => 0#4

/-- The LEN field of a command's word, 0 where it has no LEN operand (30_encoding.md R83). -/
def Instr.lenOf : Instr → BitVec 5
  | .expandKey len => len
  | .encryptBlock len => len
  | .loadState len => len
  | .pad len => len
  | .nop | .storeState | .subBytes | .shiftRows | .mixColumns | .addRoundKey _ | .round _ | .gfMul => 0#5

/-- A CMD word from its three fields, the reserved fields 0 (30_encoding.md R81, R91). -/
def commandWord (len : BitVec 5) (rnd : BitVec 4) (op : BitVec 5) : Word :=
  (len.setWidth 32 <<< 16) ||| (rnd.setWidth 32 <<< 8) ||| op.setWidth 32

/-- The word of a command (30_encoding.md R91). -/
def encode (i : Instr) : Word := commandWord i.lenOf i.rndOf i.opcode

/-- What operand a mnemonic takes in the assembler (30_encoding.md R91). -/
inductive OperandForm where
  | noOperand
  | lenOperand
  | rndOperand
deriving DecidableEq, Repr

/-- The operand form of an opcode (30_encoding.md R91), `none` for a reserved one. -/
def operandForm (op : BitVec 5) : Option OperandForm :=
  match op.toNat with
  | 0x00 | 0x04 | 0x05 | 0x06 | 0x07 | 0x0A => some .noOperand
  | 0x01 | 0x02 | 0x03 | 0x0B => some .lenOperand
  | 0x08 | 0x09 => some .rndOperand
  | _ => none

/-- The assembler on a mnemonic (by its opcode) and its operand, if any. It "must reject an operand outside the field's
width (RND beyond 4 bits, LEN beyond 5 bits)" and "may emit a value that the hardware rejects at run time"
(30_encoding.md R91). DESIGN CHOICE (log 20): this one emits every value that fits its field, and rejects an operand that
is missing or that the mnemonic does not take. -/
def assemble (op : BitVec 5) (operand : Option Nat) : Option Word :=
  match operandForm op, operand with
  | some .noOperand, none => some (commandWord 0#5 0#4 op)
  | some .lenOperand, some n => if n < 32 then some (commandWord (BitVec.ofNat 5 n) 0#4 op) else none
  | some .rndOperand, some r => if r < 16 then some (commandWord 0#5 (BitVec.ofNat 4 r) op) else none
  | _, _ => none

/-- The instruction the decoder reads from a table word: `nbits` bits numbered from 0, the bits above them 0. One
command is one 32-bit word (30_encoding.md R80), so no byte order arises (20_memory.md R54). -/
def decodeTableWord (nbits w : Nat) : Option Instr :=
  match decode (BitVec.ofNat 32 (w % 2 ^ nbits)) with
  | .ok i => some i
  | .error _ => none

end Sys2Proof
end

