-- ==== Sys2Proof/Config.lean ====
section
/-! DEFINITION. What the spec leaves open and the model holds as a free value. The constant tables are in
Machine/Tables.lean. BASE and N_INSTANCES (00_scope.md R10) are arguments of Machine/Platform.lean, and LAT(op) is the
place of the completion in the event list (log 2, log 12). -/

namespace Sys2Proof

/-- FREE VALUE. What `do_reset` leaves in word `i` of the round-key storage, at the `n`-th draw of a run: "rk[0..43] is
unspecified after reset: an implementation may keep the old words or hold any value" (70_reset_and_hazards.md R282;
log 4). Nothing constrains it. -/
opaque Config.rkDraw : Nat → Nat → Word

end Sys2Proof
end

