-- ==== Sys2Proof/Machine/State.lean ====
section
/-! DEFINITION. The state of one AES128-CORE instance (10_state.md R20), as plain data, and the machine right after
reset (70_reset_and_hazards.md R280, R281). The fields below the line "the model's own" are not registers of the spec
(log 1, log 4, log 5, log 6). -/

namespace Sys2Proof.Machine

/-- The two interrupt sources, of IRQ_EN and of IRQ_STATUS (10_state.md R28, R29): `done` is bit 0, `err` is bit 1. -/
structure IrqBits where
  done : Bool
  err : Bool
deriving DecidableEq, Repr

/-- The command error codes by name (60_exceptions.md R240). -/
inductive ErrorCode where
  | invalidKeyLength
  | invalidBlockLength
  /-- Reserved and never raised (60_exceptions.md R240; 45_padding.md R224). -/
  | paddingCorruption
  | illegalCommand
  | scheduleNotValid
  | commandOverrun
deriving DecidableEq, Repr

/-- One register write of a commit (10_state.md R38; the "writes at completion" of 30_encoding.md R86). -/
inductive RegWrite where
  /-- `STATE[c] <- v`. -/
  | state (c : Fin 4) (v : Word)
  /-- `DOUT[c] <- v`. -/
  | dout (c : Fin 4) (v : Word)
  /-- `RK[i] <- v`. -/
  | rk (i : Fin 44) (v : Word)
  /-- `KS_VALID <- b`. -/
  | ksValid (b : Bool)
  /-- `GF_RES <- zext_32(p)`. -/
  | gfRes (p : Byte)
deriving DecidableEq, Repr

/-- The sequencer's accepted command: its 5-bit opcode and the complete set of register writes its completion performs
(10_state.md R38). -/
structure Pending where
  op : BitVec 5
  commit : List RegWrite
deriving DecidableEq, Repr

/-- A host transaction (20_memory.md R51): `addr` is the 12-bit offset `paddr`, `strb` is `pstrb`. -/
inductive Transaction where
  /-- `MemRead(addr, 4)`. -/
  | read (addr : BitVec 12)
  /-- `MemWrite(addr, 4, v)` when `strb` is 1111, else `MemWriteStrb(addr, v, strb)`. -/
  | write (addr : BitVec 12) (v : Word) (strb : BitVec 4)
deriving DecidableEq, Repr

/-- What a transaction answers (20_memory.md R51, R56): `pslverr`, and for a read also `prdata`. -/
inductive BusResponse where
  | readDone (prdata : Word) (pslverr : Bool)
  | writeDone (pslverr : Bool)
deriving DecidableEq, Repr

/-- One event of the instance's total order (20_memory.md R62; 00_scope.md R18). -/
inductive Event where
  /-- A host transaction. -/
  | bus (t : Transaction)
  /-- The completion of the pending command (40_command_issue.md R103). Where none is pending it is not enabled, and
  nothing happens (log 2). -/
  | completion
  /-- A rising edge of `clk` with `rst_n = 0` (70_reset_and_hazards.md R280). -/
  | rstLow
  /-- `rst_n` goes high (70_reset_and_hazards.md R280). -/
  | rstHigh
deriving DecidableEq, Repr

/-- The machine's state. -/
structure State where
  /-- CTRL.SRST (10_state.md R23; log 16). -/
  ctrlSrst : Bool
  /-- STATUS.BUSY (10_state.md R24). -/
  busy : Bool
  /-- STATUS.KS_VALID (10_state.md R24). -/
  ksValid : Bool
  /-- STATUS.ERR (10_state.md R24). -/
  err : Bool
  /-- STATUS.ERR_OVF (10_state.md R24). -/
  errOvf : Bool
  /-- ERRCODE.CODE (10_state.md R26). -/
  errCode : BitVec 4
  /-- ERRCODE.OP (10_state.md R26). -/
  errOp : BitVec 5
  /-- IRQ_EN (10_state.md R28). -/
  irqEn : IrqBits
  /-- IRQ_STATUS (10_state.md R29). -/
  irqStatus : IrqBits
  /-- GF_OPS.A (10_state.md R31). -/
  gfA : Byte
  /-- GF_OPS.B (10_state.md R31). -/
  gfB : Byte
  /-- GF_RES.P (10_state.md R32). -/
  gfRes : Byte
  /-- KEY0..KEY3 (10_state.md R33). -/
  key : Block
  /-- DIN0..DIN3 (10_state.md R34). -/
  din : Block
  /-- DOUT0..DOUT3 (10_state.md R35). -/
  dout : Block
  /-- STATE0..STATE3, the AES State (10_state.md R36). -/
  state : Block
  /-- RK0..RK43, the round-key schedule (10_state.md R37). -/
  rk : Vector Word 44
  /-- The hidden sequencer state (10_state.md R38). -/
  pending : Option Pending
  -- the model's own
  /-- The level of the input `rst_n` at the last clock edge (log 6). -/
  rstN : Bool
  /-- The events still to come, first first (20_memory.md R62; log 1). -/
  events : List Event
  /-- What the last host transaction answered (log 5). -/
  response : Option BusResponse
  /-- How many free draws have been taken (log 4). -/
  draws : Nat
deriving DecidableEq, Repr

/-- What can stop the machine. -/
inductive Fault where
  /-- Raised by a bus transaction while `rst_n = 0`: it "gets no defined response, and the host must not access the
  core" (70_reset_and_hazards.md R280; 93_implementation_defined.md U12, treatment "stuck"). Safe where hosts respect
  that rule, unsafe for a claim that leaves it out as a premise (log 6). -/
  | accessDuringReset
deriving DecidableEq, Repr

/-- What has no meaning in the model. -/
inductive Refusal where
  /-- Raised by `exec` for an instruction that has no meaning yet. Safe: nothing can be proved of it. -/
  | notModelled (mnemonic : String)
deriving DecidableEq, Repr

/-- The machine right after reset, `rst_n` high again and no event placed (70_reset_and_hazards.md R280, R281). The
value of `rk` is a DESIGN CHOICE (R282; log 3), as are those of the model's own fields (log 1, log 4, log 5, log 6). -/
def State.reset : State where
  ctrlSrst := false
  busy := false
  ksValid := false
  err := false
  errOvf := false
  errCode := 0#4
  errOp := 0#5
  irqEn := ⟨false, false⟩
  irqStatus := ⟨false, false⟩
  gfA := 0x00#8
  gfB := 0x00#8
  gfRes := 0x00#8
  key := Block.zero
  din := Block.zero
  dout := Block.zero
  state := Block.zero
  rk := Vector.replicate 44 0#32
  pending := none
  rstN := true
  events := []
  response := none
  draws := 0

/-- What acceptance captures, the operand values at the CMD write (40_command_issue.md R102). Every effect is a
function of it. -/
structure Snapshot where
  key : Block
  din : Block
  state : Block
  rk : Vector Word 44
  gfA : Byte
  gfB : Byte
  ksValid : Bool
deriving DecidableEq, Repr

end Sys2Proof.Machine
end

