-- ==== Sys2Proof/Machine/Flags.lean ====
section
/-! DEFINITION. The flags and status words as the port shows them (10_state.md R22, R24, R26, R28, R29, R31, R32, R40),
the error codes' numbers (60_exceptions.md R240) and the interrupt line (60_exceptions.md R248). -/

namespace Sys2Proof.Machine

/-- A flag as one bit. -/
def bit (b : Bool) : BitVec 1 := BitVec.ofBool b

/-- The number of an error code (60_exceptions.md R240). Code 0x0 is "no error recorded". -/
def ErrorCode.toBits : ErrorCode → BitVec 4
  | .invalidKeyLength => 0x1#4
  | .invalidBlockLength => 0x2#4
  | .paddingCorruption => 0x3#4
  | .illegalCommand => 0x4#4
  | .scheduleNotValid => 0x5#4
  | .commandOverrun => 0x6#4

/-- The ID register, the ASCII string "AES1" (10_state.md R22). -/
def idWord : Word := 0x41455331#32

/-- STATUS: ERR_OVF, ERR, KS_VALID, BUSY in bits 3..0 (10_state.md R24). -/
def State.statusWord (s : State) : Word := 0#28 ++ bit s.errOvf ++ bit s.err ++ bit s.ksValid ++ bit s.busy

/-- ERRCODE: OP in bits 12:8, CODE in bits 3:0 (10_state.md R26). -/
def State.errcodeWord (s : State) : Word := 0#19 ++ s.errOp ++ 0#4 ++ s.errCode

/-- A pair of interrupt bits as a register word: ERR in bit 1, DONE in bit 0 (10_state.md R28, R29). -/
def IrqBits.toWord (b : IrqBits) : Word := 0#30 ++ bit b.err ++ bit b.done

/-- GF_OPS: B in bits 15:8, A in bits 7:0 (10_state.md R31). -/
def State.gfOpsWord (s : State) : Word := 0#16 ++ s.gfB ++ s.gfA

/-- GF_RES: P in bits 7:0 (10_state.md R32). -/
def State.gfResWord (s : State) : Word := 0#24 ++ s.gfRes

/-- The output `irq`, a level (60_exceptions.md R248). -/
def State.irq (s : State) : Bool := (s.irqStatus.done && s.irqEn.done) || (s.irqStatus.err && s.irqEn.err)

/-- What a write of IRQ_EN stores (10_state.md R28). -/
def irqEnOf (v : Word) : IrqBits := ⟨v.getLsbD 0, v.getLsbD 1⟩

/-- What a write of IRQ_STATUS leaves: the bits written as 1 are cleared, the others unchanged (10_state.md R29). -/
def irqStatusAfterW1C (b : IrqBits) (v : Word) : IrqBits := ⟨b.done && !v.getLsbD 0, b.err && !v.getLsbD 1⟩

end Sys2Proof.Machine
end

