-- ==== Sys2Proof/Machine/Operands.lean ====
section
/-! DEFINITION. Operands: the byte order inside words and blocks (00_scope.md R12, R13, R15), the round-key words, the
snapshot of acceptance (40_command_issue.md R102), the operand fields of a command (30_encoding.md R85) and the write
lists of 43_round_transform.md and 42_key_schedule.md. -/

namespace Sys2Proof.Machine

/-- `{a, b, c, d}`: `a` in bits [31:24], `d` in bits [7:0] (00_scope.md R12). -/
def wordOf (a b c d : Byte) : Word := a ++ b ++ c ++ d

/-- Byte `r` of a word, bits [31-8r : 24-8r] (00_scope.md R15; 43_round_transform.md R168). -/
def byteOf (w : Word) (r : Fin 4) : Byte := w.extractLsb' (24 - 8 * r.val) 8

/-- `rotl32(x, n)` (00_scope.md R12). -/
def rotl32 (x : Word) (n : Nat) : Word := (x <<< n) ||| (x >>> (32 - n))

end Sys2Proof.Machine

namespace Sys2Proof

open Machine

/-- Element `c` of a four-register array. -/
def Block.get (b : Block) (c : Fin 4) : Word :=
  match c with
  | 0 => b.w0
  | 1 => b.w1
  | 2 => b.w2
  | 3 => b.w3

/-- The array with element `c` replaced. -/
def Block.set (b : Block) (c : Fin 4) (v : Word) : Block :=
  match c with
  | 0 => { b with w0 := v }
  | 1 => { b with w1 := v }
  | 2 => { b with w2 := v }
  | 3 => { b with w3 := v }

/-- The array whose element `c` is `f c`. -/
def Block.ofFn (f : Fin 4 → Word) : Block := ⟨f 0, f 1, f 2, f 3⟩

/-- `unpack(X[0..3]) -> v[0..15]`: byte `i` is byte `i mod 4` of element `i div 4` (00_scope.md R15). -/
def Block.unpack (b : Block) (i : Fin 16) : Byte := byteOf (b.get (Fin.ofNat 4 (i.val / 4))) (Fin.ofNat 4 (i.val % 4))

/-- `pack(v[0..15]) -> X[0..3]`: `X[j] = {v[4j], v[4j+1], v[4j+2], v[4j+3]}` (00_scope.md R15). -/
def Block.pack (v : Fin 16 → Byte) : Block :=
  Block.ofFn fun j => wordOf (v (Fin.ofNat 16 (4 * j.val))) (v (Fin.ofNat 16 (4 * j.val + 1)))
    (v (Fin.ofNat 16 (4 * j.val + 2))) (v (Fin.ofNat 16 (4 * j.val + 3)))

/-- `s[r][c]`, row `r`, column `c` of the state: `X[c][31-8r : 24-8r]` (00_scope.md R13, R15). -/
def Block.byte (b : Block) (r c : Fin 4) : Byte := byteOf (b.get c) r

/-- The state whose byte at row `r`, column `c` is `f r c` (00_scope.md R13, R15). -/
def Block.ofBytes (f : Fin 4 → Fin 4 → Byte) : Block := Block.ofFn fun c => wordOf (f 0 c) (f 1 c) (f 2 c) (f 3 c)

end Sys2Proof

namespace Sys2Proof.Machine

/-- Schedule word `i`, `i` in 0..43 (10_state.md R37). No caller passes another index. -/
def rkWord (rk : Vector Word 44) (i : Nat) : Word := rk.toList.getD i 0#32

/-- Round key `r`, `r` in 0..10: the words `w[4r] .. w[4r+3]` (42_key_schedule.md R143). -/
def roundKey (rk : Vector Word 44) (r : Nat) : Block := Block.ofFn fun c => rkWord rk (4 * r + c.val)

/-- RND as an operand, `zext_32(v[11:8])` (30_encoding.md R85). -/
def rndOperand (rnd : BitVec 4) : Nat := rnd.toNat

/-- LEN as an operand, `zext_32(v[20:16])` (30_encoding.md R85). -/
def lenOperand (len : BitVec 5) : Nat := len.toNat

/-- The operand values at this CMD write (40_command_issue.md R102). -/
def State.snapshot (s : State) : Snapshot where
  key := s.key
  din := s.din
  state := s.state
  rk := s.rk
  gfA := s.gfA
  gfB := s.gfB
  ksValid := s.ksValid

/-- `put(s)`: `[STATE[c] <- s[c] for c in 0..3]` (43_round_transform.md, opening). -/
def stateWrites (x : Block) : List RegWrite := [.state 0 x.w0, .state 1 x.w1, .state 2 x.w2, .state 3 x.w3]

/-- `[DOUT[c] <- x[c] for c in 0..3]` (43_round_transform.md R166). -/
def doutWrites (x : Block) : List RegWrite := [.dout 0 x.w0, .dout 1 x.w1, .dout 2 x.w2, .dout 3 x.w3]

/-- `[RK[i] <- w[i] for i in 0..43, KS_VALID <- 1]` (42_key_schedule.md R144). -/
def scheduleWrites (w : Vector Word 44) : List RegWrite :=
  (List.finRange 44).map (fun i => .rk i w[i]) ++ [.ksValid true]

end Sys2Proof.Machine
end

