-- ==== Sys2Proof/Machine/Ops.lean ====
section
/-! DEFINITION. The machine's shared operations: recording a command error (60_exceptions.md R242, this hardware's
only "exception": it has no traps, R252), a failing, an accepted and a completing command (40_command_issue.md R101 to
R103), clearing the error record (10_state.md R25), and reset (70_reset_and_hazards.md R280). -/

namespace Sys2Proof.Machine

/-- `raise CmdError(code, op)` (60_exceptions.md R242): the first error is recorded, a later one sets ERR_OVF, and
IRQ_STATUS.ERR is set by both. -/
def raiseCmdError (e : ErrorCode) (op : BitVec 5) (s : State) : State :=
  if s.err then { s with errOvf := true, irqStatus := { s.irqStatus with err := true } }
  else { s with err := true, errCode := e.toBits, errOp := op, irqStatus := { s.irqStatus with err := true } }

/-- `irq_status.DONE <- 1` (40_command_issue.md R101, R103). -/
def setDone (s : State) : State := { s with irqStatus := { s.irqStatus with done := true } }

/-- A command that fails at its CMD write: the error and DONE (40_command_issue.md R101). -/
def failAtOnce (e : ErrorCode) (op : BitVec 5) (s : State) : State := setDone (raiseCmdError e op s)

/-- Acceptance: the commit is held and BUSY set (40_command_issue.md R102). -/
def accept (op : BitVec 5) (commit : List RegWrite) (s : State) : State :=
  { s with pending := some ⟨op, commit⟩, busy := true }

/-- A decoded command at its CMD write: overrun when busy (40_command_issue.md R100), else at-once failure with the
check's error (R101), else the accepted state (R102). -/
def issue (op : BitVec 5) (check : Option ErrorCode) (accepted : State) (s : State) :
    Host.Outcome State Fault Refusal :=
  if s.busy then .next (raiseCmdError .commandOverrun op s)
  else
    match check with
    | some e => .next (failAtOnce e op s)
    | none => .next accepted

/-- One register write of a commit (40_command_issue.md R103). -/
def applyWrite (s : State) : RegWrite → State
  | .state c v => { s with state := s.state.set c v }
  | .dout c v => { s with dout := s.dout.set c v }
  | .rk i v => { s with rk := s.rk.set i v }
  | .ksValid b => { s with ksValid := b }
  | .gfRes p => { s with gfRes := p }

/-- Every write of a commit (40_command_issue.md R103). A commit writes a register at most once, so their order does
not matter. -/
def applyCommit (ws : List RegWrite) (s : State) : State := ws.foldl applyWrite s

/-- `complete` (40_command_issue.md R103). -/
def complete (p : Pending) (s : State) : State :=
  setDone { applyCommit p.commit s with pending := none, busy := false }

/-- The error record cleared, as a STATUS write with bit 2 = 1 does (10_state.md R25). -/
def clearErrors (s : State) : State := { s with err := false, errOvf := false, errCode := 0#4, errOp := 0#5 }

/-- The round-key storage after a reset: 44 free values (70_reset_and_hazards.md R282; log 4). -/
def drawnSchedule (n : Nat) : Vector Word 44 := Vector.ofFn fun i => Config.rkDraw n i.val

/-- `do_reset` (70_reset_and_hazards.md R280). The pin, the events still to come and the last response are not
registers of the core and stay. -/
def doReset (s : State) : State :=
  { s with
    ctrlSrst := false
    pending := none
    busy := false
    ksValid := false
    err := false
    errOvf := false
    errCode := 0#4
    errOp := 0#5
    irqEn := ⟨false, false⟩
    irqStatus := ⟨false, false⟩
    gfA := 0x00#8
    gfB := 0x00#8
    gfRes := 0x00#8
    key := Block.zero
    din := Block.zero
    dout := Block.zero
    state := Block.zero
    rk := drawnSchedule s.draws
    draws := s.draws + 1 }

/-- A rising edge of `clk` with `rst_n = 0` (70_reset_and_hazards.md R280). -/
def hardwareReset (s : State) : State := { doReset s with rstN := false }

/-- `rst_n` goes high again (70_reset_and_hazards.md R280). -/
def releaseReset (s : State) : State := { s with rstN := true }

/-- The core's own step: with `rst_n` low it resets (70_reset_and_hazards.md R280; log 18); else the pending command
completes (40_command_issue.md R103); with none pending nothing happens (60_exceptions.md R260; log 2). -/
def internalEdge (s : State) : State :=
  if s.rstN then
    match s.pending with
    | none => s
    | some p => complete p s
  else doReset s

end Sys2Proof.Machine
end

