-- ==== Sys2Proof/Machine/GaloisField.lean ====
section
/-! DEFINITION. The Galois-field multiplier (41_galois_field.md R120, R121) and GF_MUL (R130). -/

namespace Sys2Proof.Machine

/-- `xtime(a)`, multiplication by x (41_galois_field.md R121). -/
def xtime (a : Byte) : Byte := if a.getLsbD 7 then (a <<< 1) ^^^ 0x1B#8 else a <<< 1

/-- One turn of the loop of 41_galois_field.md R120 on `(p, a)`, for bit `i` of `b`. -/
def gmulTurn (b : Byte) (pa : Byte × Byte) (i : Nat) : Byte × Byte :=
  (if b.getLsbD i then pa.1 ^^^ pa.2 else pa.1, xtime pa.2)

/-- `gmul(a, b)`, written `a ⊗ b` (41_galois_field.md R120): "for i in 0..7". -/
def gmul (a b : Byte) : Byte := ([0, 1, 2, 3, 4, 5, 6, 7].foldl (gmulTurn b) (0x00#8, a)).1

/-- `effect_GF_MUL(snap) = [GF_RES <- zext_32(gmul(snap.gf_a, snap.gf_b))]` (41_galois_field.md R130). -/
def effectGfMul (snap : Snapshot) : List RegWrite := [.gfRes (gmul snap.gfA snap.gfB)]

/-- GF_MUL (41_galois_field.md R130). -/
def execGfMul (s : State) : Host.Outcome State Fault Refusal :=
  issue Instr.gfMul.opcode none (accept Instr.gfMul.opcode (effectGfMul s.snapshot) s) s

end Sys2Proof.Machine
end

