-- ==== Sys2Proof/Machine/RoundTransform.lean ====
section
/-! DEFINITION. The round transform engine (43_round_transform.md R160 to R164) and its seven commands (R165 to R171). -/

namespace Sys2Proof.Machine

/-- `sub_bytes(s)[r][c] = sbox(s[r][c])` (43_round_transform.md R160). -/
def subBytes (s : Block) : Block := Block.ofBytes fun r c => sbox (s.byte r c)

/-- `shift_rows(s)[r][c] = s[r][(c + r) mod 4]` (43_round_transform.md R161). -/
def shiftRows (s : Block) : Block := Block.ofBytes fun r c => s.byte r (c + r)

/-- `mix_columns(s)[i][c]`, the XOR over `j` of `M[i][j] ⊗ s[j][c]` (43_round_transform.md R162). -/
def mixColumns (s : Block) : Block :=
  Block.ofBytes fun i c =>
    gmul (mixCoeff i 0) (s.byte 0 c) ^^^ gmul (mixCoeff i 1) (s.byte 1 c) ^^^ gmul (mixCoeff i 2) (s.byte 2 c)
      ^^^ gmul (mixCoeff i 3) (s.byte 3 c)

/-- `add_round_key(s, rk, r)`: column `c` XOR `rk[4r + c]` (43_round_transform.md R163). -/
def addRoundKey (s : Block) (rk : Vector Word 44) (r : Nat) : Block :=
  Block.ofFn fun c => s.get c ^^^ (roundKey rk r).get c

/-- `round_step(s, rk, r)`, `r` in 0..10 (43_round_transform.md R164; 90_conflicts.md C1, C3). -/
def roundStep (s : Block) (rk : Vector Word 44) (r : Nat) : Block :=
  if r = 0 then addRoundKey s rk 0
  else if r = 10 then addRoundKey (shiftRows (subBytes s)) rk 10
  else addRoundKey (mixColumns (shiftRows (subBytes s))) rk r

/-- The LEN check of LOAD_STATE (43_round_transform.md R165). -/
def checkLoadState (len : BitVec 5) (_ : Snapshot) : Option ErrorCode :=
  if lenOperand len ≠ 16 then some .invalidBlockLength else none

/-- The check of ADD_ROUND_KEY and ROUND: "if snap.ks_valid = 0: return SCHEDULE_NOT_VALID" (43_round_transform.md R170,
R171). A round index above 10, which no CMD word decodes to, is ILLEGAL_COMMAND (30_encoding.md R88; log 9). -/
def checkRoundIndex (rnd : BitVec 4) (snap : Snapshot) : Option ErrorCode :=
  if roundIndexOk rnd then (if snap.ksValid then none else some .scheduleNotValid) else some .illegalCommand

/-- `effect_LOAD_STATE` (43_round_transform.md R165). -/
def effectLoadState (snap : Snapshot) : List RegWrite := stateWrites snap.din

/-- `effect_STORE_STATE` (43_round_transform.md R166). -/
def effectStoreState (snap : Snapshot) : List RegWrite := doutWrites snap.state

/-- `effect_SUB_BYTES` (43_round_transform.md R167). -/
def effectSubBytes (snap : Snapshot) : List RegWrite := stateWrites (subBytes snap.state)

/-- `effect_SHIFT_ROWS` (43_round_transform.md R168). -/
def effectShiftRows (snap : Snapshot) : List RegWrite := stateWrites (shiftRows snap.state)

/-- `effect_MIX_COLUMNS` (43_round_transform.md R169). -/
def effectMixColumns (snap : Snapshot) : List RegWrite := stateWrites (mixColumns snap.state)

/-- `effect_ADD_ROUND_KEY` (43_round_transform.md R170). -/
def effectAddRoundKey (rnd : BitVec 4) (snap : Snapshot) : List RegWrite :=
  stateWrites (addRoundKey snap.state snap.rk (rndOperand rnd))

/-- `effect_ROUND` (43_round_transform.md R171). -/
def effectRound (rnd : BitVec 4) (snap : Snapshot) : List RegWrite :=
  stateWrites (roundStep snap.state snap.rk (rndOperand rnd))

/-- LOAD_STATE (43_round_transform.md R165). -/
def execLoadState (len : BitVec 5) (s : State) : Host.Outcome State Fault Refusal :=
  issue (Instr.loadState len).opcode (checkLoadState len s.snapshot)
    (accept (Instr.loadState len).opcode (effectLoadState s.snapshot) s) s

/-- STORE_STATE (43_round_transform.md R166). -/
def execStoreState (s : State) : Host.Outcome State Fault Refusal :=
  issue Instr.storeState.opcode none (accept Instr.storeState.opcode (effectStoreState s.snapshot) s) s

/-- SUB_BYTES (43_round_transform.md R167). -/
def execSubBytes (s : State) : Host.Outcome State Fault Refusal :=
  issue Instr.subBytes.opcode none (accept Instr.subBytes.opcode (effectSubBytes s.snapshot) s) s

/-- SHIFT_ROWS (43_round_transform.md R168). -/
def execShiftRows (s : State) : Host.Outcome State Fault Refusal :=
  issue Instr.shiftRows.opcode none (accept Instr.shiftRows.opcode (effectShiftRows s.snapshot) s) s

/-- MIX_COLUMNS (43_round_transform.md R169). -/
def execMixColumns (s : State) : Host.Outcome State Fault Refusal :=
  issue Instr.mixColumns.opcode none (accept Instr.mixColumns.opcode (effectMixColumns s.snapshot) s) s

/-- ADD_ROUND_KEY (43_round_transform.md R170). -/
def execAddRoundKey (rnd : BitVec 4) (s : State) : Host.Outcome State Fault Refusal :=
  issue (Instr.addRoundKey rnd).opcode (checkRoundIndex rnd s.snapshot)
    (accept (Instr.addRoundKey rnd).opcode (effectAddRoundKey rnd s.snapshot) s) s

/-- ROUND (43_round_transform.md R171). -/
def execRound (rnd : BitVec 4) (s : State) : Host.Outcome State Fault Refusal :=
  issue (Instr.round rnd).opcode (checkRoundIndex rnd s.snapshot)
    (accept (Instr.round rnd).opcode (effectRound rnd s.snapshot) s) s

end Sys2Proof.Machine
end

