-- ==== Sys2Proof/Machine/BlockCipher.lean ====
section
/-! DEFINITION. The block cipher orchestrator (44_block_cipher.md R200) and ENCRYPT_BLOCK (R201). -/

namespace Sys2Proof.Machine

/-- One turn of step 3 of 44_block_cipher.md R200: the full round `r`. -/
def fullRound (w : Vector Word 44) (s : Block) (r : Nat) : Block :=
  addRoundKey (mixColumns (shiftRows (subBytes s))) w r

/-- `cipher(blk, w)`: 1 initial key addition, 9 full rounds, 1 final round (44_block_cipher.md R200;
90_conflicts.md C1). -/
def cipher (blk : Block) (w : Vector Word 44) : Block :=
  let s := [1, 2, 3, 4, 5, 6, 7, 8, 9].foldl (fullRound w) (addRoundKey blk w 0)
  addRoundKey (shiftRows (subBytes s)) w 10

/-- `check_ENCRYPT_BLOCK`: the length first, then the schedule (44_block_cipher.md R201). -/
def checkEncryptBlock (len : BitVec 5) (snap : Snapshot) : Option ErrorCode :=
  if lenOperand len ≠ 16 then some .invalidBlockLength
  else if snap.ksValid then none else some .scheduleNotValid

/-- `effect_ENCRYPT_BLOCK` (44_block_cipher.md R201). -/
def effectEncryptBlock (snap : Snapshot) : List RegWrite :=
  let out := cipher snap.din snap.rk
  stateWrites out ++ doutWrites out

/-- ENCRYPT_BLOCK (44_block_cipher.md R201). -/
def execEncryptBlock (len : BitVec 5) (s : State) : Host.Outcome State Fault Refusal :=
  issue (Instr.encryptBlock len).opcode (checkEncryptBlock len s.snapshot)
    (accept (Instr.encryptBlock len).opcode (effectEncryptBlock s.snapshot) s) s

end Sys2Proof.Machine
end

