-- ==== Sys2Proof/Machine/KeySchedule.lean ====
section
/-! DEFINITION. The key scheduler (42_key_schedule.md R140 to R143) and EXPAND_KEY (R144). -/

namespace Sys2Proof.Machine

/-- `rot_word(w) = rotl32(w, 8)` (42_key_schedule.md R140). -/
def rotWord (w : Word) : Word := rotl32 w 8

/-- `sub_word` (42_key_schedule.md R141). -/
def subWord (w : Word) : Word := wordOf (sbox (byteOf w 0)) (sbox (byteOf w 1)) (sbox (byteOf w 2)) (sbox (byteOf w 3))

/-- `t` of 42_key_schedule.md R142 for word `i`, from `w[i-1]`. -/
def scheduleMix (i : Nat) (prev : Word) : Word :=
  if i % 4 = 0 then subWord (rotWord prev) ^^^ wordOf (rcon (i / 4)) 0x00#8 0x00#8 0x00#8 else prev

/-- `w[i] <- w[i-4] ^ t`, for the words `w[0..i-1]` (42_key_schedule.md R142). -/
def nextScheduleWord (w : List Word) : Word :=
  w.getD (w.length - 4) 0#32 ^^^ scheduleMix w.length (w.getD (w.length - 1) 0#32)

/-- The first `4 + n` words of the schedule of the key whose four words are `k` (42_key_schedule.md R142). -/
def scheduleWords (k : Block) : Nat → List Word
  | 0 => [k.w0, k.w1, k.w2, k.w3]
  | n + 1 =>
    let w := scheduleWords k n
    w ++ [nextScheduleWord w]

/-- `expand_key(k[0..15]) -> w[0..43]`, the key given packed as KEY0..KEY3 hold it (42_key_schedule.md R142;
10_state.md R33). -/
def expandKey (k : Block) : Vector Word 44 :=
  let w := scheduleWords k 40
  Vector.ofFn fun i => w.getD i.val 0#32

/-- `check_EXPAND_KEY` (42_key_schedule.md R144). -/
def checkExpandKey (len : BitVec 5) (_ : Snapshot) : Option ErrorCode :=
  if lenOperand len ≠ 16 then some .invalidKeyLength else none

/-- `effect_EXPAND_KEY` (42_key_schedule.md R144). -/
def effectExpandKey (snap : Snapshot) : List RegWrite := scheduleWrites (expandKey snap.key)

/-- EXPAND_KEY: KS_VALID is cleared at acceptance (42_key_schedule.md R144). -/
def execExpandKey (len : BitVec 5) (s : State) : Host.Outcome State Fault Refusal :=
  issue (Instr.expandKey len).opcode (checkExpandKey len s.snapshot)
    (accept (Instr.expandKey len).opcode (effectExpandKey s.snapshot) { s with ksValid := false }) s

end Sys2Proof.Machine
end

