-- ==== Sys2Proof/Machine/Padding.lean ====
section
/-! DEFINITION. The padding engine (45_padding.md R220, R221) and PAD (R222). -/

namespace Sys2Proof.Machine

/-- `pad(data)` over a byte sequence of any length (45_padding.md R220). The host computes it with PAD (R223). -/
def pad (data : List Byte) : List Byte :=
  let p := 16 - data.length % 16
  data ++ List.replicate p (BitVec.ofNat 8 p)

/-- `pad_block(d[0..15], n)`, `n` in 0..15, on packed blocks (45_padding.md R221). -/
def padBlock (d : Block) (n : Nat) : Block :=
  Block.pack fun k => if k.val < n then d.unpack k else BitVec.ofNat 8 (16 - n)

/-- The check of PAD: "if LEN > 15: return INVALID_BLOCK_LENGTH" (45_padding.md R222). -/
def checkPad (len : BitVec 5) (_ : Snapshot) : Option ErrorCode :=
  if lenOperand len > 15 then some .invalidBlockLength else none

/-- `effect_PAD` (45_padding.md R222). -/
def effectPad (len : BitVec 5) (snap : Snapshot) : List RegWrite := doutWrites (padBlock snap.din (lenOperand len))

/-- PAD (45_padding.md R222). -/
def execPad (len : BitVec 5) (s : State) : Host.Outcome State Fault Refusal :=
  issue (Instr.pad len).opcode (checkPad len s.snapshot)
    (accept (Instr.pad len).opcode (effectPad len s.snapshot) s) s

end Sys2Proof.Machine
end

