-- ==== Sys2Proof/Machine/Sequencer.lean ====
section
/-! DEFINITION. The command of the sequencer unit: NOP (40_command_issue.md R107). -/

namespace Sys2Proof.Machine

/-- `effect_NOP(snapshot) = []` (40_command_issue.md R107). -/
def effectNop (_ : Snapshot) : List RegWrite := []

/-- NOP (40_command_issue.md R107). -/
def execNop (s : State) : Host.Outcome State Fault Refusal :=
  issue Instr.nop.opcode none (accept Instr.nop.opcode (effectNop s.snapshot) s) s

end Sys2Proof.Machine
end

