-- ==== Sys2Proof/Machine/Dispatch.lean ====
section
/-! DEFINITION. One arm per command: what the CMD write of its word does (40_command_issue.md R100 to R102). -/

namespace Sys2Proof.Machine

def exec (i : Instr) (s : State) : Host.Outcome State Fault Refusal :=
  match i with
  | .nop => Sys2Proof.Machine.execNop s
  | .expandKey len => Sys2Proof.Machine.execExpandKey len s
  | .encryptBlock len => Sys2Proof.Machine.execEncryptBlock len s
  | .loadState len => Sys2Proof.Machine.execLoadState len s
  | .storeState => Sys2Proof.Machine.execStoreState s
  | .subBytes => Sys2Proof.Machine.execSubBytes s
  | .shiftRows => Sys2Proof.Machine.execShiftRows s
  | .mixColumns => Sys2Proof.Machine.execMixColumns s
  | .addRoundKey rnd => Sys2Proof.Machine.execAddRoundKey rnd s
  | .round rnd => Sys2Proof.Machine.execRound rnd s
  | .gfMul => Sys2Proof.Machine.execGfMul s
  | .pad len => Sys2Proof.Machine.execPad len s

end Sys2Proof.Machine
end

