-- ==== Sys2Proof/Machine/RegisterPort.lean ====
section
/-! DEFINITION. The register port: the register table (10_state.md R21), reads (20_memory.md R57 to R59; 10_state.md
R36, R37), writes (10_state.md R23, R25, R28, R29, R31; 40_command_issue.md R100, R101), legal accesses and the bus
error response (20_memory.md R55, R56), and what each event does (40_command_issue.md; 70_reset_and_hazards.md R280). -/

namespace Sys2Proof.Machine

/-- The registers of 10_state.md R21, the complete set (R41). -/
inductive Reg where
  | id
  | ctrl
  | status
  | errcode
  | cmd
  | irqEn
  | irqStatus
  | gfOps
  | gfRes
  | key (j : Fin 4)
  | din (j : Fin 4)
  | dout (j : Fin 4)
  | state (j : Fin 4)
  | rk (i : Fin 44)
deriving DecidableEq, Repr

/-- The byte offset of a register (10_state.md R21). -/
def Reg.offset : Reg → BitVec 12
  | .id => 0x000#12
  | .ctrl => 0x004#12
  | .status => 0x008#12
  | .errcode => 0x00C#12
  | .cmd => 0x010#12
  | .irqEn => 0x014#12
  | .irqStatus => 0x018#12
  | .gfOps => 0x01C#12
  | .gfRes => 0x020#12
  | .key j => BitVec.ofNat 12 (0x030 + 4 * j.val)
  | .din j => BitVec.ofNat 12 (0x040 + 4 * j.val)
  | .dout j => BitVec.ofNat 12 (0x050 + 4 * j.val)
  | .state j => BitVec.ofNat 12 (0x060 + 4 * j.val)
  | .rk i => BitVec.ofNat 12 (0x100 + 4 * i.val)

/-- Whether an address is word aligned (20_memory.md R55). -/
def aligned (a : BitVec 12) : Bool := decide (a.toNat % 4 = 0)

/-- Element `j` of an array of registers, for an offset inside it. -/
def elementAt (n : Nat) [NeZero n] (base a : Nat) : Fin n := Fin.ofNat n ((a - base) / 4)

/-- The register at an offset; none at the reserved offsets (20_memory.md R57) and where the address is not aligned. -/
def regAt (a : BitVec 12) : Option Reg :=
  let n := a.toNat
  if n % 4 ≠ 0 then none
  else if n = 0x000 then some .id
  else if n = 0x004 then some .ctrl
  else if n = 0x008 then some .status
  else if n = 0x00C then some .errcode
  else if n = 0x010 then some .cmd
  else if n = 0x014 then some .irqEn
  else if n = 0x018 then some .irqStatus
  else if n = 0x01C then some .gfOps
  else if n = 0x020 then some .gfRes
  else if 0x030 ≤ n ∧ n < 0x040 then some (.key (elementAt 4 0x030 n))
  else if 0x040 ≤ n ∧ n < 0x050 then some (.din (elementAt 4 0x040 n))
  else if 0x050 ≤ n ∧ n < 0x060 then some (.dout (elementAt 4 0x050 n))
  else if 0x060 ≤ n ∧ n < 0x070 then some (.state (elementAt 4 0x060 n))
  else if 0x100 ≤ n ∧ n < 0x1B0 then some (.rk (elementAt 44 0x100 n))
  else none

/-- What a read of a register answers (10_state.md R22 to R37). CTRL and CMD read 0 (R23, R27), STATE reads 0 while BUSY
(R36) and RK reads 0 while KS_VALID = 0 (R37). -/
def readReg (s : State) : Reg → Word
  | .id => idWord
  | .ctrl => 0#32
  | .status => s.statusWord
  | .errcode => s.errcodeWord
  | .cmd => 0#32
  | .irqEn => s.irqEn.toWord
  | .irqStatus => s.irqStatus.toWord
  | .gfOps => s.gfOpsWord
  | .gfRes => s.gfResWord
  | .key j => s.key.get j
  | .din j => s.din.get j
  | .dout j => s.dout.get j
  | .state j => if s.busy then 0#32 else s.state.get j
  | .rk i => if s.ksValid then s.rk[i] else 0#32

/-- What a legal read at an offset answers; a reserved offset reads 0 (20_memory.md R57). -/
def readOffset (s : State) (a : BitVec 12) : Word :=
  match regAt a with
  | some r => readReg s r
  | none => 0#32

/-- A write of CMD: rejected undecoded while busy (40_command_issue.md R100), else decoded, and ILLEGAL fails at once
(R101), and a command does what its rule says. -/
def cmdWrite (v : Word) (s : State) : Host.Outcome State Fault Refusal :=
  if s.busy then .next (raiseCmdError .commandOverrun (opField v) s)
  else
    match decode v with
    | .error _ => .next (failAtOnce .illegalCommand (opField v) s)
    | .ok i => exec i s

/-- A write of CTRL: bit 0 = 1 sets the self-clearing SRST, which performs `do_reset` (10_state.md R23;
70_reset_and_hazards.md R283). -/
def ctrlWrite (v : Word) (s : State) : State := if v.getLsbD 0 then doReset { s with ctrlSrst := true } else s

/-- A write of STATUS (10_state.md R25). -/
def statusWrite (v : Word) (s : State) : State := if v.getLsbD 2 then clearErrors s else s

/-- A write of a register. Writes of read-only registers are ignored (20_memory.md R58), and so are reserved bits. -/
def writeReg (r : Reg) (v : Word) (s : State) : Host.Outcome State Fault Refusal :=
  match r with
  | .id => .next s
  | .ctrl => .next (ctrlWrite v s)
  | .status => .next (statusWrite v s)
  | .errcode => .next s
  | .cmd => cmdWrite v s
  | .irqEn => .next { s with irqEn := irqEnOf v }
  | .irqStatus => .next { s with irqStatus := irqStatusAfterW1C s.irqStatus v }
  | .gfOps => .next { s with gfA := v.extractLsb' 0 8, gfB := v.extractLsb' 8 8 }
  | .gfRes => .next s
  | .key j => .next { s with key := s.key.set j v }
  | .din j => .next { s with din := s.din.set j v }
  | .dout _ => .next s
  | .state _ => .next s
  | .rk _ => .next s

/-- A legal write at an offset; at a reserved offset it is ignored (20_memory.md R57). -/
def writeOffset (a : BitVec 12) (v : Word) (s : State) : Host.Outcome State Fault Refusal :=
  match regAt a with
  | some r => writeReg r v s
  | none => .next s

/-- Whether a transaction is legal (20_memory.md R55). -/
def Transaction.legal : Transaction → Bool
  | .read a => aligned a
  | .write a _ strb => aligned a && decide (strb = 0b1111#4)

/-- What a transaction answers (20_memory.md R51, R56, R57). -/
def busResponse (t : Transaction) (s : State) : BusResponse :=
  match t with
  | .read a => if t.legal then .readDone (readOffset s a) false else .readDone 0#32 true
  | .write _ _ _ => .writeDone (!t.legal)

/-- The effect of a transaction on the core: none for a read (20_memory.md R59) and for an illegal access (R56). -/
def busEffect (t : Transaction) (s : State) : Host.Outcome State Fault Refusal :=
  match t with
  | .read _ => .next s
  | .write a v _ => if t.legal then writeOffset a v s else .next s

/-- One host transaction, a single event (20_memory.md R51): its response and its effect. With `rst_n` low it has no
defined response (70_reset_and_hazards.md R280; log 6). -/
def busTransaction (t : Transaction) (s : State) : Host.Outcome State Fault Refusal :=
  if s.rstN then busEffect t { s with response := some (busResponse t s) } else .fault .accessDuringReset

/-- What one event does. -/
def handleEvent (e : Event) (s : State) : Host.Outcome State Fault Refusal :=
  match e with
  | .bus t => busTransaction t s
  | .completion => .next (internalEdge s)
  | .rstLow => .next (hardwareReset s)
  | .rstHigh => .next (releaseReset s)

/-- The next event of the total order (20_memory.md R62). When no event is left, an accepted command still completes
(40_command_issue.md R109: weak fairness; log 2). -/
def nextEvent (s : State) : Host.Outcome State Fault Refusal :=
  match s.events with
  | [] => .next (internalEdge s)
  | e :: es => handleEvent e { s with events := es }

/-- The CMD write that carries a table word (40_command_issue.md R100, R101). -/
def cmdWriteEvent (nbits w : Nat) : Event := .bus (.write Reg.cmd.offset (BitVec.ofNat 32 (w % 2 ^ nbits)) 0b1111#4)

end Sys2Proof.Machine
end

