-- ==== Sys2Proof/Machine/Step.lean ====
section
/-! DEFINITION. One step of the machine: one event (20_memory.md R62). The core fetches nothing (10_state.md R30); an
instruction reaches it as the data of a CMD write (20_memory.md R65). -/

namespace Sys2Proof.Machine

/-- One step: the next event of the instance's total order. -/
def step (s : State) : Host.Outcome State Fault Refusal := nextEvent s

/-- `s` with the CMD write of a table word as the next event, which is what stands for a fetch here, and `rst_n` high,
which a bus access needs (log 1, log 10). -/
def State.withFetchWord (s : State) (nbits w : Nat) : State :=
  { s with rstN := true, events := cmdWriteEvent nbits w :: s.events }

end Sys2Proof.Machine
end

