-- ==== Sys2Proof/Machine/HostProgram.lean ====
section
/-! DEFINITION. The host's notation (30_encoding.md R92, R93) as events. A host program is a sequence of bus events
(00_scope.md R18); where the completions fall among them is written into the list as well (20_memory.md R62; log 1). -/

namespace Sys2Proof.Machine

/-- `WR <reg>, v` (30_encoding.md R92). -/
def wr (r : Reg) (v : Word) : Event := .bus (.write r.offset v 0b1111#4)

/-- `RD <reg>` (30_encoding.md R92). -/
def rd (r : Reg) : Event := .bus (.read r.offset)

/-- `CMD <command>` (30_encoding.md R93). -/
def cmd (i : Instr) : Event := wr .cmd (encode i)

/-- `WAIT` (30_encoding.md R93) in a run where the pending command completes after `n` reads of STATUS: `n` reads that
see BUSY = 1 and one that sees BUSY = 0. "The number of reads is not fixed". -/
def wait (n : Nat) : List Event := List.replicate n (rd .status) ++ [.completion, rd .status]

/-- `RUN <command>` (30_encoding.md R93), its WAIT with `n` reads that see BUSY = 1. -/
def run (i : Instr) (n : Nat) : List Event := cmd i :: wait n

/-- `LDKEY k0..k15` (30_encoding.md R93). -/
def ldKey (k : Block) : List Event := [wr (.key 0) k.w0, wr (.key 1) k.w1, wr (.key 2) k.w2, wr (.key 3) k.w3]

/-- `LDIN b0..b15` (30_encoding.md R93). -/
def ldIn (b : Block) : List Event := [wr (.din 0) b.w0, wr (.din 1) b.w1, wr (.din 2) b.w2, wr (.din 3) b.w3]

/-- `RDOUT` (30_encoding.md R93). -/
def rdOut : List Event := [rd (.dout 0), rd (.dout 1), rd (.dout 2), rd (.dout 3)]

/-- `CLRERR` (30_encoding.md R93). -/
def clrErr : Event := wr .status 0x00000004#32

/-- `SRST` (30_encoding.md R93). -/
def srst : Event := wr .ctrl 0x00000001#32

/-- Commands issued one after another, each completing before the next is issued (44_block_cipher.md R202). DESIGN
CHOICE (log 19): no host transaction stands between a CMD write and its completion, where "zero or more host
transactions may come between them" (40_command_issue.md R109). -/
def commandSequence (is : List Instr) : List Event := is.flatMap fun i => [cmd i, .completion]

/-- RUN in the one run where its completion comes before the first STATUS read of the WAIT. DESIGN CHOICE (log 19): "the
number of reads is not fixed" (30_encoding.md R93), and the completion may fall anywhere after the accepting write
(40_command_issue.md R109); `run i n` is the RUN with any other number of reads. -/
def runOnce (i : Instr) : List Event := run i 0

/-- Steps 1 to 3 of the required order before encryption (70_reset_and_hazards.md R286). Step 1 is optional
("Optionally set IRQ_EN"): `none` leaves the write out, `some v` makes it. The ERRCODE read is R289's: "the host must
check ERRCODE after EXPAND_KEY". DESIGN CHOICE: the host waits for completion by reading STATUS, where R287 allows a
read of IRQ_STATUS.DONE and the DONE interrupt as well (log 22); it reads STATUS once (log 19); KEY0 to KEY3 are
written in LDKEY's order (log 21). -/
def loadSchedule (irqEnables : Option Word) (k : Block) : List Event :=
  (irqEnables.map (wr .irqEn)).toList ++ ldKey k ++ runOnce (.expandKey 16#5) ++ [rd .errcode]

/-- Step 4 of 70_reset_and_hazards.md R286, for one block (44_block_cipher.md R204). DESIGN CHOICE: the host waits for
completion by reading STATUS, where R287 allows a read of IRQ_STATUS.DONE and the DONE interrupt as well (log 22); it
reads STATUS once (log 19); the registers are written and read in the order of LDIN and RDOUT, with no ERRCODE read (log
21). -/
def encryptOne (b : Block) : List Event := ldIn b ++ runOnce (.encryptBlock 16#5) ++ rdOut

/-- Bytes `16 i` to `16 i + 15` of a message as a block. DESIGN CHOICE (log 23): where the message is shorter the bytes
are 0; 45_padding.md R223 says what to load into the first `n` bytes only, and PAD ignores the others (R222). -/
def blockOf (data : List Byte) (i : Nat) : Block := Block.pack fun k => data.getD (16 * i + k.val) 0x00#8

/-- The host procedure for a message (45_padding.md R223): the full blocks in order (44_block_cipher.md R204), then
the final chunk through PAD, whose DOUT the host copies to DIN. R223 waits for these two commands by RUN, that is by
reading STATUS (30_encoding.md R93). DESIGN CHOICE: the full blocks wait by reading STATUS too (log 22), each wait
reads STATUS once (log 19), the registers are read and written in the order of RDOUT and LDIN (log 21), and the copy
writes the value that the reads answer once PAD completed without an error (log 23). -/
def encryptMessage (data : List Byte) : List Event :=
  let n := data.length % 16
  let m := data.length / 16
  (List.range m).flatMap (fun i => encryptOne (blockOf data i)) ++ ldIn (blockOf data m) ++
    runOnce (.pad (BitVec.ofNat 5 n)) ++ rdOut ++ encryptOne (padBlock (blockOf data m) n)

end Sys2Proof.Machine
end

