-- ==== Sys2Proof/Machine/Platform.lean ====
section
/-! DEFINITION. A platform with N_INSTANCES cores, each at its own BASE (00_scope.md R10; 20_memory.md R60;
60_exceptions.md R263; log 11). The machine of Host/Core.lean is one of them. -/

namespace Sys2Proof.Machine

/-- One core and the platform address of its 4 KiB register block (20_memory.md R60). -/
structure Instance where
  base : Nat
  core : State
deriving DecidableEq, Repr

/-- The cores of a platform; N_INSTANCES is the length of the list. -/
abbrev Platform := List Instance

/-- Every BASE is aligned to 4 KiB (20_memory.md R60) and no two cores have the same one (60_exceptions.md R263). -/
def Platform.wf (p : Platform) : Bool :=
  p.all (fun x => decide (x.base % 4096 = 0)) && decide ((p.map fun x => x.base).Nodup)

/-- Whether a platform address lies in the core's 4 KiB (20_memory.md R60). -/
def Instance.claims (x : Instance) (addr : Nat) : Bool := decide (x.base ≤ addr ∧ addr < x.base + 4096)

/-- The core with one more transaction at the end of its events, at the offset of `addr` in its block. -/
def Instance.receive (x : Instance) (addr : Nat) (t : BitVec 12 → Transaction) : Instance :=
  { x with core := { x.core with events := x.core.events ++ [.bus (t (BitVec.ofNat 12 (addr - x.base)))] } }

/-- A host transaction at a platform address, given to the core that claims the address (30_encoding.md R92:
`BASE + offset(reg)`). -/
def Platform.place (p : Platform) (addr : Nat) (t : BitVec 12 → Transaction) : Platform :=
  p.map fun x => if x.claims addr then x.receive addr t else x

/-- One step of core number `k` (60_exceptions.md R263: the cores "share no state"). -/
def Platform.stepInstance (p : Platform) (k : Nat) : Host.Outcome Platform Fault Refusal :=
  match p[k]? with
  | none => .next p
  | some x =>
    match step x.core with
    | .next s => .next (p.set k { x with core := s })
    | .fault r => .fault r
    | .refused r => .refused r

end Sys2Proof.Machine
end

