-- ==== Sys2Proof/Safety.lean ====
section
/-! DEFINITION. The terms claims use: each command's check and effect by one name (40_command_issue.md R101, R102), the
machine's invariant, the host's duty in reset, and what a completion does. -/

namespace Sys2Proof

open Machine

/-- `check_d` (40_command_issue.md R101; 60_exceptions.md R241). -/
def checkOf : Instr → Snapshot → Option ErrorCode
  | .nop, _ => none
  | .expandKey len, snap => checkExpandKey len snap
  | .encryptBlock len, snap => checkEncryptBlock len snap
  | .loadState len, snap => checkLoadState len snap
  | .storeState, _ => none
  | .subBytes, _ => none
  | .shiftRows, _ => none
  | .mixColumns, _ => none
  | .addRoundKey rnd, snap => checkRoundIndex rnd snap
  | .round rnd, snap => checkRoundIndex rnd snap
  | .gfMul, _ => none
  | .pad len, snap => checkPad len snap

/-- `effect_d` (40_command_issue.md R102). -/
def effectOf : Instr → Snapshot → List RegWrite
  | .nop, snap => effectNop snap
  | .expandKey _, snap => effectExpandKey snap
  | .encryptBlock _, snap => effectEncryptBlock snap
  | .loadState _, snap => effectLoadState snap
  | .storeState, snap => effectStoreState snap
  | .subBytes, snap => effectSubBytes snap
  | .shiftRows, snap => effectShiftRows snap
  | .mixColumns, snap => effectMixColumns snap
  | .addRoundKey rnd, snap => effectAddRoundKey rnd snap
  | .round rnd, snap => effectRound rnd snap
  | .gfMul, snap => effectGfMul snap
  | .pad len, snap => effectPad len snap

/-- `accept_side_effect_d`: "only EXPAND_KEY has one: ks_valid <- 0" (40_command_issue.md R102). -/
def acceptSideEffect : Instr → State → State
  | .expandKey _, s => { s with ksValid := false }
  | .nop, s | .encryptBlock _, s | .loadState _, s | .storeState, s | .subBytes, s | .shiftRows, s | .mixColumns, s
  | .addRoundKey _, s | .round _, s | .gfMul, s | .pad _, s => s

/-- What the commit of an accepted command may be, by opcode: the "writes at completion" of 30_encoding.md R86. -/
def LegalCommit (op : BitVec 5) (ws : List RegWrite) : Prop :=
  match op.toNat with
  | 0x00 => ws = []
  | 0x01 => ∃ k : Block, ws = scheduleWrites (expandKey k)
  | 0x02 => ∃ x : Block, ws = stateWrites x ++ doutWrites x
  | 0x03 | 0x05 | 0x06 | 0x07 | 0x08 | 0x09 => ∃ x : Block, ws = stateWrites x
  | 0x04 | 0x0B => ∃ x : Block, ws = doutWrites x
  | 0x0A => ∃ p : Byte, ws = [.gfRes p]
  | _ => False

/-- Every register but `rk` is at its reset value (70_reset_and_hazards.md R280). -/
structure RegistersReset (s : State) : Prop where
  ctrlSrst : s.ctrlSrst = false
  pending : s.pending = none
  busy : s.busy = false
  ksValid : s.ksValid = false
  err : s.err = false
  errOvf : s.errOvf = false
  errCode : s.errCode = 0#4
  errOp : s.errOp = 0#5
  irqEn : s.irqEn = ⟨false, false⟩
  irqStatus : s.irqStatus = ⟨false, false⟩
  gfA : s.gfA = 0#8
  gfB : s.gfB = 0#8
  gfRes : s.gfRes = 0#8
  key : s.key = Block.zero
  din : s.din = Block.zero
  dout : s.dout = Block.zero
  state : s.state = Block.zero

/-- The codes the hardware raises (60_exceptions.md R240: 0x3 and 0x7..0xF are never raised). -/
def raisedCodes : List (BitVec 4) := [0x1#4, 0x2#4, 0x4#4, 0x5#4, 0x6#4]

/-- The machine's invariant. -/
structure Inv (s : State) : Prop where
  /-- 10_state.md R20: "busy = 1 if and only if pending != none". -/
  busyIffPending : s.busy = true ↔ s.pending ≠ none
  /-- 10_state.md R20: "always reads 0". -/
  srstReadsZero : s.ctrlSrst = false
  /-- 10_state.md R26: with ERR = 0 the record is empty. -/
  noErrorNoRecord : s.err = false → s.errCode = 0#4 ∧ s.errOp = 0#5 ∧ s.errOvf = false
  /-- 60_exceptions.md R240: with ERR = 1 the code is one the hardware raises. -/
  errorCodeRaised : s.err = true → s.errCode ∈ raisedCodes
  /-- 30_encoding.md R86: the pending commit writes what its opcode may write. -/
  commitLegal : ∀ p, s.pending = some p → LegalCommit p.op p.commit
  /-- 42_key_schedule.md R144: KS_VALID is 0 while EXPAND_KEY runs. -/
  expandingNotValid : ∀ p, s.pending = some p → p.op = 0x01#5 → s.ksValid = false
  /-- 10_state.md R24: with KS_VALID = 1, RK holds the complete schedule of a key. -/
  scheduleOfAKey : s.ksValid = true → ∃ k : Block, s.rk = expandKey k
  /-- 70_reset_and_hazards.md R280: while `rst_n` is low the core is at reset. -/
  resetWhileLow : s.rstN = false → RegistersReset s

/-- The host issues no transaction while `rst_n` is low (70_reset_and_hazards.md R280; U12), for a level and the events
to come. -/
def noAccessInReset : Bool → List Event → Bool
  | _, [] => true
  | level, .bus _ :: es => level && noAccessInReset level es
  | level, .completion :: es => noAccessInReset level es
  | _, .rstLow :: es => noAccessInReset false es
  | _, .rstHigh :: es => noAccessInReset true es

/-- `s` after one transaction was taken off its events and answered with `r`, and nothing else happened. -/
def Machine.State.served (s : State) (es : List Event) (r : BusResponse) : State :=
  { s with events := es, response := some r }

/-- The completion of `p` makes the register writes `w` and, beside them, only ends the command: in any state in which
`p` is pending and the completion is the next event, whatever the host has written since (40_command_issue.md R102,
R103). -/
def CompletesAs (p : Pending) (w : State → State) : Prop :=
  ∀ (u : State) (es : List Event), u.rstN = true → u.pending = some p → u.events = .completion :: es →
    step u = .next { w u with
      events := es, pending := none, busy := false, irqStatus := ⟨true, u.irqStatus.err⟩ }

end Sys2Proof
end

