-- ==== Sys2Proof/Certificates/Slice0/Obligations.lean ====
section
/-! DEFINITION. The statements for the provers. Each docstring names the rule of spec/ the statement formalises. -/

namespace Sys2Proof

open Machine

/-! ## Words of the statements -/

/-- The words 30_encoding.md R87 and R88 make illegal, by the bit positions of R81. -/
def IllegalWord (v : Word) : Prop :=
  v.extractLsb' 5 3 ≠ 0#3 ∨ v.extractLsb' 12 4 ≠ 0#4 ∨ v.extractLsb' 21 11 ≠ 0#11 ∨
  v.extractLsb' 0 5 ∉ [0x00#5, 0x01#5, 0x02#5, 0x03#5, 0x04#5, 0x05#5, 0x06#5, 0x07#5, 0x08#5, 0x09#5, 0x0A#5, 0x0B#5] ∨
  (v.extractLsb' 0 5 ∉ [0x08#5, 0x09#5] ∧ v.extractLsb' 8 4 ≠ 0#4) ∨
  (v.extractLsb' 0 5 ∈ [0x08#5, 0x09#5] ∧ 10 < (v.extractLsb' 8 4).toNat) ∨
  (v.extractLsb' 0 5 ∉ [0x01#5, 0x02#5, 0x03#5, 0x0B#5] ∧ v.extractLsb' 16 5 ≠ 0#5)

/-- EXPAND_KEY with LEN != 16 (60_exceptions.md R241). -/
def KeyLengthBad (v : Word) : Prop := v.extractLsb' 0 5 = 0x01#5 ∧ v.extractLsb' 16 5 ≠ 16#5

/-- ENCRYPT_BLOCK or LOAD_STATE with LEN != 16, or PAD with LEN > 15 (60_exceptions.md R240, R241). -/
def BlockLengthBad (v : Word) : Prop :=
  (v.extractLsb' 0 5 ∈ [0x02#5, 0x03#5] ∧ v.extractLsb' 16 5 ≠ 16#5) ∨
  (v.extractLsb' 0 5 = 0x0B#5 ∧ 15 < (v.extractLsb' 16 5).toNat)

/-- ENCRYPT_BLOCK, ADD_ROUND_KEY or ROUND (60_exceptions.md R241). -/
def NeedsSchedule (v : Word) : Prop := v.extractLsb' 0 5 ∈ [0x02#5, 0x08#5, 0x09#5]

/-- A CMD write, while idle, of any word with this OP other than the `good` ones raises ILLEGAL_COMMAND (30_encoding.md
R83, R84; 40_command_issue.md R101). -/
def OtherWordsAreIllegal (op : BitVec 5) (good : Word → Prop) : Prop :=
  ∀ (s : State) (v : Word) (es : List Event), s.rstN = true → s.busy = false → s.events = wr .cmd v :: es →
    v.extractLsb' 0 5 = op → ¬ good v →
    step s = .next (failAtOnce .illegalCommand op (s.served es (.writeDone false)))

/-- The register a write of a commit goes to. -/
def writeTarget : RegWrite → Reg
  | .state c _ => .state c
  | .dout c _ => .dout c
  | .rk i _ => .rk i
  | .ksValid _ => .status
  | .gfRes _ => .gfRes

/-- The reserved offsets (20_memory.md R57). -/
def ReservedOffset (a : BitVec 12) : Prop :=
  a.toNat % 4 = 0 ∧ ((0x024 ≤ a.toNat ∧ a.toNat ≤ 0x02C) ∨ (0x070 ≤ a.toNat ∧ a.toNat ≤ 0x0FC) ∨
    (0x1B0 ≤ a.toNat ∧ a.toNat ≤ 0xFFC))

/-- The bits of a read-write register that store (10_state.md R28, R31, R33, R34). -/
def storedBits : Reg → Option Word
  | .irqEn => some 0x00000003#32
  | .gfOps => some 0x0000FFFF#32
  | .key _ => some 0xFFFFFFFF#32
  | .din _ => some 0xFFFFFFFF#32
  | .id | .ctrl | .status | .errcode | .cmd | .irqStatus | .gfRes | .dout _ | .state _ | .rk _ => none

end Sys2Proof

open Sys2Proof Sys2Proof.Machine

/-! ## Encoding -/

/-- The examples of 30_encoding.md R94, each word as the table writes it. -/
def Obligations.EncodingExamplesDecodeAsTabled : Prop :=
  decode 0x00100001#32 = .ok (.expandKey 16#5) ∧ decode 0x000F0001#32 = .ok (.expandKey 15#5) ∧
  decode 0x00100002#32 = .ok (.encryptBlock 16#5) ∧ decode 0x00000A09#32 = .ok (.round 10#4) ∧
  (∃ e, decode 0x00000B09#32 = .error e) ∧ decode 0x00000A08#32 = .ok (.addRoundKey 10#4) ∧
  decode 0x0005000B#32 = .ok (.pad 5#5) ∧ decode 0x0010000B#32 = .ok (.pad 16#5) ∧
  (∃ e, decode 0x00000105#32 = .error e) ∧ (∃ e, decode 0x00000025#32 = .error e) ∧
  (∃ e, decode 0x0000000C#32 = .error e) ∧ (∃ e, decode 0x80000000#32 = .error e)

/-- Decode and encode agree, for every well-formed command with every operand its encoding admits (30_encoding.md R84,
R91). -/
def Obligations.DecodeOfEncodeIsTheCommand : Prop := ∀ i : Instr, WellFormed i → decode (encode i) = .ok i

/-- The other direction: no two words mean the same command, and what the decoder reads is well formed (30_encoding.md
R84, R91). -/
def Obligations.EncodeOfDecodeIsTheWord : Prop :=
  ∀ (v : Word) (i : Instr), decode v = .ok i → encode i = v ∧ WellFormed i

/-- 30_encoding.md R87, R88: reserved opcodes, nonzero reserved fields, a nonzero RND or LEN where it must be 0, and
RND > 10 raise ILLEGAL_COMMAND, with the word's OP recorded, and do nothing else; no other word is refused by the
decoder. -/
def Obligations.ReservedEncodingsRaiseIllegalCommand : Prop :=
  (∀ v : Word, (∃ e, decode v = .error e) ↔ IllegalWord v) ∧
  ∀ (s : State) (v : Word) (es : List Event), s.rstN = true → s.busy = false → s.events = wr .cmd v :: es →
    IllegalWord v →
    step s = .next (failAtOnce .illegalCommand (v.extractLsb' 0 5) (s.served es (.writeDone false)))

/-- The assembler emits each command's word and rejects an operand outside the field's width (30_encoding.md R91). R91
only lets it emit a value the hardware rejects at run time ("It may emit"): that it emits RND 11..15 and every LEN that
fits the field (PAD 16..31 among them) is the model's choice (log 20). -/
def Obligations.AssemblerEmitsTableWordsAndRejectsWideOperands : Prop :=
  (∀ op ∈ [0x01#5, 0x02#5, 0x03#5, 0x0B#5], ∀ n : Nat,
    (n < 32 → assemble op (some n) = some (BitVec.ofNat 32 n <<< 16 ||| op.setWidth 32)) ∧
    (32 ≤ n → assemble op (some n) = none)) ∧
  (∀ op ∈ [0x08#5, 0x09#5], ∀ r : Nat,
    (r < 16 → assemble op (some r) = some (BitVec.ofNat 32 r <<< 8 ||| op.setWidth 32)) ∧
    (16 ≤ r → assemble op (some r) = none)) ∧
  (∀ op ∈ [0x00#5, 0x04#5, 0x05#5, 0x06#5, 0x07#5, 0x0A#5], assemble op none = some (op.setWidth 32))

/-! ## Issue, completion, progress -/

/-- A CMD write of a word that decodes to `i` does exactly what `exec i` says, after the write is answered
(40_command_issue.md R101). Busy or idle: where busy, both raise COMMAND_OVERRUN (R100). -/
def Obligations.CmdWriteRunsTheDecodedCommand : Prop :=
  ∀ (s : State) (v : Word) (i : Instr) (es : List Event), s.rstN = true → s.events = wr .cmd v :: es →
    decode v = .ok i → step s = exec i (s.served es (.writeDone false))

/-- 60_exceptions.md R242: the first error is recorded, a later one sets ERR_OVF, both set IRQ_STATUS.ERR, and nothing
else changes. The codes are those of R240. -/
def Obligations.FirstCommandErrorWins : Prop :=
  (∀ (e : ErrorCode) (op : BitVec 5) (s : State), s.err = false →
    raiseCmdError e op s =
      { s with err := true, errCode := e.toBits, errOp := op, irqStatus := ⟨s.irqStatus.done, true⟩ }) ∧
  (∀ (e : ErrorCode) (op : BitVec 5) (s : State), s.err = true →
    raiseCmdError e op s = { s with errOvf := true, irqStatus := ⟨s.irqStatus.done, true⟩ }) ∧
  ErrorCode.invalidKeyLength.toBits = 0x1#4 ∧ ErrorCode.invalidBlockLength.toBits = 0x2#4 ∧
  ErrorCode.illegalCommand.toBits = 0x4#4 ∧ ErrorCode.scheduleNotValid.toBits = 0x5#4 ∧
  ErrorCode.commandOverrun.toBits = 0x6#4

/-- 60_exceptions.md R244: of the conditions that hold at one CMD write, the first in the order overrun, illegal, length,
schedule is raised, and only it; where none holds, nothing is raised and the command is accepted. -/
def Obligations.OneErrorPerCmdWriteByPriority : Prop :=
  ∀ (s : State) (v : Word) (es : List Event), s.rstN = true → s.events = wr .cmd v :: es →
    (s.busy = true →
      step s = .next (raiseCmdError .commandOverrun (v.extractLsb' 0 5) (s.served es (.writeDone false)))) ∧
    (s.busy = false → IllegalWord v →
      step s = .next (failAtOnce .illegalCommand (v.extractLsb' 0 5) (s.served es (.writeDone false)))) ∧
    (s.busy = false → ¬ IllegalWord v → KeyLengthBad v →
      step s = .next (failAtOnce .invalidKeyLength (v.extractLsb' 0 5) (s.served es (.writeDone false)))) ∧
    (s.busy = false → ¬ IllegalWord v → BlockLengthBad v →
      step s = .next (failAtOnce .invalidBlockLength (v.extractLsb' 0 5) (s.served es (.writeDone false)))) ∧
    (s.busy = false → ¬ IllegalWord v → ¬ KeyLengthBad v → ¬ BlockLengthBad v → NeedsSchedule v → s.ksValid = false →
      step s = .next (failAtOnce .scheduleNotValid (v.extractLsb' 0 5) (s.served es (.writeDone false)))) ∧
    (s.busy = false → ¬ IllegalWord v → ¬ KeyLengthBad v → ¬ BlockLengthBad v → (NeedsSchedule v → s.ksValid = true) →
      ∃ t, step s = .next t ∧ t.busy = true ∧ (∃ p, t.pending = some p ∧ p.op = v.extractLsb' 0 5) ∧ t.err = s.err ∧
        t.errOvf = s.errOvf ∧ t.errCode = s.errCode ∧ t.errOp = s.errOp ∧ t.irqStatus = s.irqStatus)

/-- 60_exceptions.md R243: a CMD write that is not accepted changes the error record and IRQ_STATUS and nothing else
(DONE is set for a non-overrun error only), and a completion leaves the error record alone. -/
def Obligations.RejectedCommandsChangeOnlyTheErrorRecord : Prop :=
  (∀ (s t : State) (v : Word) (es : List Event), s.rstN = true → s.events = wr .cmd v :: es → step s = .next t →
    (s.busy = true ∨ t.busy = false) →
    t = { s.served es (.writeDone false) with
      err := true, errOvf := t.errOvf, errCode := t.errCode, errOp := t.errOp,
      irqStatus := ⟨s.irqStatus.done || !s.busy, true⟩ }) ∧
  (∀ (s t : State) (p : Pending) (es : List Event), s.rstN = true → s.pending = some p →
    s.events = .completion :: es → step s = .next t →
    t.err = s.err ∧ t.errOvf = s.errOvf ∧ t.errCode = s.errCode ∧ t.errOp = s.errOp ∧
      t.irqStatus.err = s.irqStatus.err)

/-- 40_command_issue.md R103: a completion applies the commit, ends the command, clears BUSY and sets DONE, in one step,
and it cannot fail. That a step with no event left is such a completion is the model's choice (weak fairness, log 2). -/
def Obligations.CompletionAppliesTheCommit : Prop :=
  ∀ (s : State) (p : Pending), s.rstN = true → s.pending = some p →
    (∀ es : List Event, s.events = .completion :: es →
      step s = .next { applyCommit p.commit s with
        events := es, pending := none, busy := false, irqStatus := ⟨true, s.irqStatus.err⟩ }) ∧
    (s.events = [] →
      step s = .next { applyCommit p.commit s with
        pending := none, busy := false, irqStatus := ⟨true, s.irqStatus.err⟩ })

/-- 40_command_issue.md R103 and 20_memory.md R61: every write of a commit that names no register twice lands, and a
register it does not name keeps its value. -/
def Obligations.CommitWritesEachNamedRegisterOnly : Prop :=
  ∀ (ws : List RegWrite) (s : State), (ws.map writeTarget).Nodup →
    (∀ c v, .state c v ∈ ws → (applyCommit ws s).state.get c = v) ∧
    (∀ c v, .dout c v ∈ ws → (applyCommit ws s).dout.get c = v) ∧
    (∀ i v, .rk i v ∈ ws → (applyCommit ws s).rk[i] = v) ∧
    (∀ b, .ksValid b ∈ ws → (applyCommit ws s).ksValid = b) ∧
    (∀ p, .gfRes p ∈ ws → (applyCommit ws s).gfRes = p) ∧
    (∀ c, .state c ∉ ws.map writeTarget → (applyCommit ws s).state.get c = s.state.get c) ∧
    (∀ c, .dout c ∉ ws.map writeTarget → (applyCommit ws s).dout.get c = s.dout.get c) ∧
    (∀ i, .rk i ∉ ws.map writeTarget → (applyCommit ws s).rk[i] = s.rk[i]) ∧
    (.status ∉ ws.map writeTarget → (applyCommit ws s).ksValid = s.ksValid) ∧
    (.gfRes ∉ ws.map writeTarget → (applyCommit ws s).gfRes = s.gfRes) ∧
    applyCommit ws s = { s with
      state := (applyCommit ws s).state, dout := (applyCommit ws s).dout, rk := (applyCommit ws s).rk,
      ksValid := (applyCommit ws s).ksValid, gfRes := (applyCommit ws s).gfRes }

/-- 10_state.md R38 and 40_command_issue.md R106: while a command is pending, no transaction but a soft reset changes
it, nor BUSY, nor any result register. -/
def Obligations.HostTransactionsLeaveThePendingCommandAlone : Prop :=
  ∀ (s t : State) (x : Transaction) (es : List Event), s.rstN = true → s.busy = true → s.events = .bus x :: es →
    (∀ v, v.getLsbD 0 = true → x ≠ .write 0x004#12 v 0b1111#4) → step s = .next t →
    t.pending = s.pending ∧ t.busy = true ∧ t.ksValid = s.ksValid ∧ t.rk = s.rk ∧ t.state = s.state ∧
      t.dout = s.dout ∧ t.gfRes = s.gfRes ∧ t.irqStatus.done = (s.irqStatus.done && t.irqStatus.done)

/-- In a machine that meets the invariant, BUSY is 0 again after at most one step more than there are events to come
(40_command_issue.md R109), at the command's completion, wherever it stands among them, or at a reset. That a command
completes when no event is left is the model's choice (weak fairness, log 2). -/
def Obligations.BusyFallsWithinTheEventsToCome : Prop :=
  ∀ s : State, Inv s → ∃ n t, n ≤ s.events.length + 1 ∧ Sys2Proof.core.run n s = .next t ∧ t.busy = false

/-- A step is never refused, and it faults only at a transaction with `rst_n` low, which "has no defined response"
(70_reset_and_hazards.md R280; log 6). So a core whose host keeps off the port while `rst_n` is low never stops, whatever
it is asked to do (60_exceptions.md R253; U12). -/
def Obligations.OnlyAnAccessDuringResetStopsTheCore : Prop :=
  (∀ s : State, (∃ t, step s = .next t) ∨
    (step s = .fault .accessDuringReset ∧ s.rstN = false ∧ ∃ x es, s.events = .bus x :: es)) ∧
  (∀ (s : State) (n : Nat), noAccessInReset s.rstN s.events = true → ∃ t, Sys2Proof.core.run n s = .next t)

/-- `RUN <command>` of 30_encoding.md R93: a command that passes its check, run from idle, ends with a STATUS read that
sees BUSY = 0, and DONE set, whichever read of the WAIT sees the completion. -/
def Obligations.RunPseudoInstructionEndsWithBusyClear : Prop :=
  ∀ (s : State) (i : Instr) (n : Nat) (es : List Event), s.rstN = true → s.busy = false → s.pending = none →
    WellFormed i → checkOf i s.snapshot = none → s.events = run i n ++ es →
    ∃ t w, Sys2Proof.core.run (n + 3) s = .next t ∧ t.events = es ∧ t.response = some (.readDone w false) ∧
      w.getLsbD 0 = false ∧ t.busy = false ∧ t.irqStatus.done = true

/-! ## The commands -/

/-- NOP (40_command_issue.md R107). -/
def Obligations.NopRunsAndChangesNothing : Prop :=
  (∀ v : Word, decode v = .ok .nop ↔ v = 0x00000000#32) ∧
  OtherWordsAreIllegal 0x00#5 (fun v => v = 0x00000000#32) ∧
  ∀ s : State,
    (s.busy = false → ∃ p : Pending, p.op = 0x00#5 ∧
      exec .nop s = .next { s with busy := true, pending := some p } ∧ CompletesAs p fun u => u) ∧
    (s.busy = true → exec .nop s = .next (raiseCmdError .commandOverrun 0x00#5 s))

/-- EXPAND_KEY (42_key_schedule.md R144). -/
def Obligations.ExpandKeyStoresTheScheduleOfKey : Prop :=
  (∀ (v : Word) (len : BitVec 5), decode v = .ok (.expandKey len) ↔ v = len.setWidth 32 <<< 16 ||| 0x01#32) ∧
  OtherWordsAreIllegal 0x01#5 (fun v => ∃ len : BitVec 5, v = len.setWidth 32 <<< 16 ||| 0x01#32) ∧
  ∀ s : State,
    (s.busy = false → ∃ p : Pending, p.op = 0x01#5 ∧
      exec (.expandKey 16#5) s = .next { s with ksValid := false, busy := true, pending := some p } ∧
      CompletesAs p fun u => { u with rk := expandKey s.key, ksValid := true }) ∧
    (∀ len : BitVec 5, s.busy = false → len ≠ 16#5 →
      exec (.expandKey len) s = .next (failAtOnce .invalidKeyLength 0x01#5 s)) ∧
    (∀ len : BitVec 5, s.busy = true → exec (.expandKey len) s = .next (raiseCmdError .commandOverrun 0x01#5 s))

/-- ENCRYPT_BLOCK (44_block_cipher.md R201). -/
def Obligations.EncryptBlockStoresTheCiphertext : Prop :=
  (∀ (v : Word) (len : BitVec 5), decode v = .ok (.encryptBlock len) ↔ v = len.setWidth 32 <<< 16 ||| 0x02#32) ∧
  OtherWordsAreIllegal 0x02#5 (fun v => ∃ len : BitVec 5, v = len.setWidth 32 <<< 16 ||| 0x02#32) ∧
  ∀ s : State,
    (s.busy = false → s.ksValid = true → ∃ p : Pending, p.op = 0x02#5 ∧
      exec (.encryptBlock 16#5) s = .next { s with busy := true, pending := some p } ∧
      CompletesAs p fun u => { u with state := cipher s.din s.rk, dout := cipher s.din s.rk }) ∧
    (∀ len : BitVec 5, s.busy = false → len ≠ 16#5 →
      exec (.encryptBlock len) s = .next (failAtOnce .invalidBlockLength 0x02#5 s)) ∧
    (s.busy = false → s.ksValid = false →
      exec (.encryptBlock 16#5) s = .next (failAtOnce .scheduleNotValid 0x02#5 s)) ∧
    (∀ len : BitVec 5, s.busy = true → exec (.encryptBlock len) s = .next (raiseCmdError .commandOverrun 0x02#5 s))

/-- LOAD_STATE (43_round_transform.md R165). -/
def Obligations.LoadStateCopiesDinToState : Prop :=
  (∀ (v : Word) (len : BitVec 5), decode v = .ok (.loadState len) ↔ v = len.setWidth 32 <<< 16 ||| 0x03#32) ∧
  OtherWordsAreIllegal 0x03#5 (fun v => ∃ len : BitVec 5, v = len.setWidth 32 <<< 16 ||| 0x03#32) ∧
  ∀ s : State,
    (s.busy = false → ∃ p : Pending, p.op = 0x03#5 ∧
      exec (.loadState 16#5) s = .next { s with busy := true, pending := some p } ∧
      CompletesAs p fun u => { u with state := s.din }) ∧
    (∀ len : BitVec 5, s.busy = false → len ≠ 16#5 →
      exec (.loadState len) s = .next (failAtOnce .invalidBlockLength 0x03#5 s)) ∧
    (∀ len : BitVec 5, s.busy = true → exec (.loadState len) s = .next (raiseCmdError .commandOverrun 0x03#5 s))

/-- STORE_STATE (43_round_transform.md R166). -/
def Obligations.StoreStateCopiesStateToDout : Prop :=
  (∀ v : Word, decode v = .ok .storeState ↔ v = 0x00000004#32) ∧
  OtherWordsAreIllegal 0x04#5 (fun v => v = 0x00000004#32) ∧
  ∀ s : State,
    (s.busy = false → ∃ p : Pending, p.op = 0x04#5 ∧
      exec .storeState s = .next { s with busy := true, pending := some p } ∧
      CompletesAs p fun u => { u with dout := s.state }) ∧
    (s.busy = true → exec .storeState s = .next (raiseCmdError .commandOverrun 0x04#5 s))

/-- SUB_BYTES (43_round_transform.md R167). -/
def Obligations.SubBytesCommandSubstitutesState : Prop :=
  (∀ v : Word, decode v = .ok .subBytes ↔ v = 0x00000005#32) ∧
  OtherWordsAreIllegal 0x05#5 (fun v => v = 0x00000005#32) ∧
  ∀ s : State,
    (s.busy = false → ∃ p : Pending, p.op = 0x05#5 ∧
      exec .subBytes s = .next { s with busy := true, pending := some p } ∧
      CompletesAs p fun u => { u with state := subBytes s.state }) ∧
    (s.busy = true → exec .subBytes s = .next (raiseCmdError .commandOverrun 0x05#5 s))

/-- SHIFT_ROWS (43_round_transform.md R168). -/
def Obligations.ShiftRowsCommandRotatesTheRows : Prop :=
  (∀ v : Word, decode v = .ok .shiftRows ↔ v = 0x00000006#32) ∧
  OtherWordsAreIllegal 0x06#5 (fun v => v = 0x00000006#32) ∧
  ∀ s : State,
    (s.busy = false → ∃ p : Pending, p.op = 0x06#5 ∧
      exec .shiftRows s = .next { s with busy := true, pending := some p } ∧
      CompletesAs p fun u => { u with state := shiftRows s.state }) ∧
    (s.busy = true → exec .shiftRows s = .next (raiseCmdError .commandOverrun 0x06#5 s))

/-- MIX_COLUMNS (43_round_transform.md R169). -/
def Obligations.MixColumnsCommandMixesTheColumns : Prop :=
  (∀ v : Word, decode v = .ok .mixColumns ↔ v = 0x00000007#32) ∧
  OtherWordsAreIllegal 0x07#5 (fun v => v = 0x00000007#32) ∧
  ∀ s : State,
    (s.busy = false → ∃ p : Pending, p.op = 0x07#5 ∧
      exec .mixColumns s = .next { s with busy := true, pending := some p } ∧
      CompletesAs p fun u => { u with state := mixColumns s.state }) ∧
    (s.busy = true → exec .mixColumns s = .next (raiseCmdError .commandOverrun 0x07#5 s))

/-- ADD_ROUND_KEY (43_round_transform.md R170). -/
def Obligations.AddRoundKeyCommandXorsTheRoundKey : Prop :=
  (∀ (v : Word) (r : BitVec 4), decode v = .ok (.addRoundKey r) ↔ r.toNat ≤ 10 ∧ v = r.setWidth 32 <<< 8 ||| 0x08#32) ∧
  OtherWordsAreIllegal 0x08#5 (fun v => ∃ r : BitVec 4, r.toNat ≤ 10 ∧ v = r.setWidth 32 <<< 8 ||| 0x08#32) ∧
  ∀ (s : State) (r : BitVec 4), r.toNat ≤ 10 →
    (s.busy = false → s.ksValid = true → ∃ p : Pending, p.op = 0x08#5 ∧
      exec (.addRoundKey r) s = .next { s with busy := true, pending := some p } ∧
      CompletesAs p fun u => { u with state := addRoundKey s.state s.rk r.toNat }) ∧
    (s.busy = false → s.ksValid = false →
      exec (.addRoundKey r) s = .next (failAtOnce .scheduleNotValid 0x08#5 s)) ∧
    (s.busy = true → exec (.addRoundKey r) s = .next (raiseCmdError .commandOverrun 0x08#5 s))

/-- ROUND (43_round_transform.md R171). -/
def Obligations.RoundCommandRunsOneRound : Prop :=
  (∀ (v : Word) (r : BitVec 4), decode v = .ok (.round r) ↔ r.toNat ≤ 10 ∧ v = r.setWidth 32 <<< 8 ||| 0x09#32) ∧
  OtherWordsAreIllegal 0x09#5 (fun v => ∃ r : BitVec 4, r.toNat ≤ 10 ∧ v = r.setWidth 32 <<< 8 ||| 0x09#32) ∧
  ∀ (s : State) (r : BitVec 4), r.toNat ≤ 10 →
    (s.busy = false → s.ksValid = true → ∃ p : Pending, p.op = 0x09#5 ∧
      exec (.round r) s = .next { s with busy := true, pending := some p } ∧
      CompletesAs p fun u => { u with state := roundStep s.state s.rk r.toNat }) ∧
    (s.busy = false → s.ksValid = false →
      exec (.round r) s = .next (failAtOnce .scheduleNotValid 0x09#5 s)) ∧
    (s.busy = true → exec (.round r) s = .next (raiseCmdError .commandOverrun 0x09#5 s))

/-- GF_MUL (41_galois_field.md R130). -/
def Obligations.GfMulStoresTheProduct : Prop :=
  (∀ v : Word, decode v = .ok .gfMul ↔ v = 0x0000000A#32) ∧
  OtherWordsAreIllegal 0x0A#5 (fun v => v = 0x0000000A#32) ∧
  ∀ s : State,
    (s.busy = false → ∃ p : Pending, p.op = 0x0A#5 ∧
      exec .gfMul s = .next { s with busy := true, pending := some p } ∧
      CompletesAs p fun u => { u with gfRes := gmul s.gfA s.gfB }) ∧
    (s.busy = true → exec .gfMul s = .next (raiseCmdError .commandOverrun 0x0A#5 s))

/-- PAD (45_padding.md R222). -/
def Obligations.PadCommandPadsTheFinalChunk : Prop :=
  (∀ (v : Word) (n : BitVec 5), decode v = .ok (.pad n) ↔ v = n.setWidth 32 <<< 16 ||| 0x0B#32) ∧
  OtherWordsAreIllegal 0x0B#5 (fun v => ∃ n : BitVec 5, v = n.setWidth 32 <<< 16 ||| 0x0B#32) ∧
  ∀ (s : State) (n : BitVec 5),
    (s.busy = false → n.toNat ≤ 15 → ∃ p : Pending, p.op = 0x0B#5 ∧
      exec (.pad n) s = .next { s with busy := true, pending := some p } ∧
      CompletesAs p fun u => { u with dout := padBlock s.din n.toNat }) ∧
    (s.busy = false → 15 < n.toNat → exec (.pad n) s = .next (failAtOnce .invalidBlockLength 0x0B#5 s)) ∧
    (s.busy = true → exec (.pad n) s = .next (raiseCmdError .commandOverrun 0x0B#5 s))

/-- Step equivalence (44_block_cipher.md R202): both command sequences of the rule, each command issued after the one
before it completes, leave the machine exactly as ENCRYPT_BLOCK 16 leaves it. That each completion comes right after its
CMD write, with no host transaction between them, is the model's choice of these runs (log 19). -/
def Obligations.StepwiseEncryptionEqualsEncryptBlock : Prop :=
  ∀ (s : State) (es : List Event), s.rstN = true → s.busy = false → s.pending = none → s.ksValid = true →
    let whole := commandSequence [.encryptBlock 16#5]
    let byRounds := commandSequence
      [.loadState 16#5, .round 0#4, .round 1#4, .round 2#4, .round 3#4, .round 4#4, .round 5#4, .round 6#4, .round 7#4,
       .round 8#4, .round 9#4, .round 10#4, .storeState]
    let bySteps := commandSequence
      ([.loadState 16#5, .round 0#4] ++
        ([1#4, 2#4, 3#4, 4#4, 5#4, 6#4, 7#4, 8#4, 9#4].flatMap fun r =>
          [.subBytes, .shiftRows, .mixColumns, .addRoundKey r]) ++
        [.subBytes, .shiftRows, .addRoundKey 10#4, .storeState])
    ∃ t, Sys2Proof.core.run whole.length { s with events := whole ++ es } = .next t ∧
      t.state = cipher s.din s.rk ∧ t.dout = cipher s.din s.rk ∧
      Sys2Proof.core.run byRounds.length { s with events := byRounds ++ es } = .next t ∧
      Sys2Proof.core.run bySteps.length { s with events := bySteps ++ es } = .next t

/-! ## The functions -/

/-- sub_bytes acts byte by byte (43_round_transform.md R160); shift_rows rotates row `r` left by `r` positions (R161).
The list of input bytes in block-byte terms is R161's own inference ("[derived: from this rule]"). -/
def Obligations.SubBytesAndShiftRowsActOnBytes : Prop :=
  (∀ (s : Block) (r c : Fin 4), (subBytes s).byte r c = sbox (s.byte r c)) ∧
  (∀ (s : Block) (r c c' : Fin 4), c'.val = (c.val + r.val) % 4 → (shiftRows s).byte r c = s.byte r c') ∧
  ∀ s : Block, (List.finRange 16).map (shiftRows s).unpack =
    [s.unpack 0, s.unpack 5, s.unpack 10, s.unpack 15, s.unpack 4, s.unpack 9, s.unpack 14, s.unpack 3, s.unpack 8,
     s.unpack 13, s.unpack 2, s.unpack 7, s.unpack 12, s.unpack 1, s.unpack 6, s.unpack 11]

/-- mix_columns, each column on its own, in terms of M and with M written out (43_round_transform.md R162). The
coefficients 2, 3, 1, 1 are the spec's own, from general knowledge ("Its values are not in the source",
41_galois_field.md R128; log 7). -/
def Obligations.MixColumnsMultipliesByTheMatrix : Prop :=
  (∀ (s : Block) (i c : Fin 4), (mixColumns s).byte i c =
    gmul (mixCoeff i 0) (s.byte 0 c) ^^^ gmul (mixCoeff i 1) (s.byte 1 c) ^^^ gmul (mixCoeff i 2) (s.byte 2 c) ^^^
      gmul (mixCoeff i 3) (s.byte 3 c)) ∧
  ∀ (s : Block) (c : Fin 4),
    (mixColumns s).byte 0 c = gmul 2 (s.byte 0 c) ^^^ gmul 3 (s.byte 1 c) ^^^ s.byte 2 c ^^^ s.byte 3 c ∧
    (mixColumns s).byte 1 c = s.byte 0 c ^^^ gmul 2 (s.byte 1 c) ^^^ gmul 3 (s.byte 2 c) ^^^ s.byte 3 c ∧
    (mixColumns s).byte 2 c = s.byte 0 c ^^^ s.byte 1 c ^^^ gmul 2 (s.byte 2 c) ^^^ gmul 3 (s.byte 3 c) ∧
    (mixColumns s).byte 3 c = gmul 3 (s.byte 0 c) ^^^ s.byte 1 c ^^^ s.byte 2 c ^^^ gmul 2 (s.byte 3 c)

/-- add_round_key XORs column `c` with schedule word `4r + c`, and byte by byte with that word's bytes
(43_round_transform.md R163). -/
def Obligations.AddRoundKeyXorsScheduleWords : Prop :=
  ∀ (s : Block) (rk : Vector Word 44) (r : Nat), r ≤ 10 →
    ∀ (c : Fin 4) (i : Fin 44), i.val = 4 * r + c.val →
      (addRoundKey s rk r).get c = s.get c ^^^ rk[i] ∧
      ∀ row : Fin 4, (addRoundKey s rk r).byte row c = s.byte row c ^^^ rk[i].extractLsb' (24 - 8 * row.val) 8

/-- The block cipher is rounds 0 to 10 in increasing order, R200's own inference ("[derived: from 43_round_transform.md
rule R164]", 44_block_cipher.md R200), and each is the step of 43_round_transform.md R164. -/
def Obligations.CipherIsElevenRoundSteps : Prop :=
  (∀ (b : Block) (w : Vector Word 44), cipher b w =
    [0, 1, 2, 3, 4, 5, 6, 7, 8, 9, 10].foldl (fun s r => roundStep s w r) b) ∧
  (∀ (s : Block) (w : Vector Word 44), roundStep s w 0 = addRoundKey s w 0 ∧
    roundStep s w 10 = addRoundKey (shiftRows (subBytes s)) w 10 ∧
    ∀ r, 1 ≤ r → r ≤ 9 → roundStep s w r = addRoundKey (mixColumns (shiftRows (subBytes s))) w r)

/-- The laws of 43_round_transform.md R172. -/
def Obligations.RoundTransformLaws : Prop :=
  (∀ s : Block, shiftRows (shiftRows (shiftRows (shiftRows s))) = s) ∧
  (∀ (s : Block) (rk : Vector Word 44) (r : Nat), addRoundKey (addRoundKey s rk r) rk r = s) ∧
  Function.Bijective subBytes ∧
  (∀ s : Block, shiftRows (subBytes s) = subBytes (shiftRows s)) ∧
  (∀ s t : Block, mixColumns (Block.ofFn fun c => s.get c ^^^ t.get c) =
    Block.ofFn fun c => (mixColumns s).get c ^^^ (mixColumns t).get c)

/-- The key schedule's recurrence (42_key_schedule.md R142): words 0..3 are the key, and word `i` for `i` in 4..43 is
`w[i-4]` XOR `t`; with what it is made of: rot_word (R140), sub_word byte by byte through the S-box (R141), and the ten
round constants (41_galois_field.md R127). -/
def Obligations.KeyScheduleFollowsItsRecurrence : Prop :=
  (∀ k : Block, (∀ c : Fin 4, rkWord (expandKey k) c.val = k.get c) ∧
    ∀ i : Nat, 4 ≤ i → i ≤ 43 →
      rkWord (expandKey k) i = rkWord (expandKey k) (i - 4) ^^^
        (if i % 4 = 0 then
          subWord (rotWord (rkWord (expandKey k) (i - 1))) ^^^ (rcon (i / 4)).setWidth 32 <<< 24
        else rkWord (expandKey k) (i - 1))) ∧
  (∀ b0 b1 b2 b3 : Byte, rotWord (b0 ++ b1 ++ b2 ++ b3) = b1 ++ b2 ++ b3 ++ b0) ∧
  (∀ w : Word, rotWord w = w <<< 8 ||| w >>> 24) ∧
  (∀ b0 b1 b2 b3 : Byte, subWord (b0 ++ b1 ++ b2 ++ b3) = sbox b0 ++ sbox b1 ++ sbox b2 ++ sbox b3) ∧
  rcon 1 = 0x01#8 ∧ rcon 2 = 0x02#8 ∧ rcon 3 = 0x04#8 ∧ rcon 4 = 0x08#8 ∧ rcon 5 = 0x10#8 ∧ rcon 6 = 0x20#8 ∧
  rcon 7 = 0x40#8 ∧ rcon 8 = 0x80#8 ∧ rcon 9 = 0x1B#8 ∧ rcon 10 = 0x36#8

/-- Distinct keys give distinct schedules, already in words 4..7, from which the key can be recovered
(42_key_schedule.md R145). -/
def Obligations.DistinctKeysGiveDistinctSchedules : Prop :=
  (∀ k k' : Block, expandKey k = expandKey k' → k = k') ∧
  (∀ k k' : Block, (∀ i : Nat, 4 ≤ i → i ≤ 7 → rkWord (expandKey k) i = rkWord (expandKey k') i) → k = k') ∧
  (∀ k : Block,
    k.w3 = rkWord (expandKey k) 7 ^^^ rkWord (expandKey k) 6 ∧
    k.w2 = rkWord (expandKey k) 6 ^^^ rkWord (expandKey k) 5 ∧
    k.w1 = rkWord (expandKey k) 5 ^^^ rkWord (expandKey k) 4 ∧
    k.w0 = rkWord (expandKey k) 4 ^^^ subWord (rotWord k.w3) ^^^ (rcon 1).setWidth 32 <<< 24)

/-- The normative requirement of 41_galois_field.md R120: with a byte read as the polynomial over GF(2) whose coefficient
of `x^i` is bit `i`, the product is congruent to the polynomial product modulo x^8+x^4+x^3+x+1 (and it is one byte, so
it is the reduced one). -/
def Obligations.GmulIsPolynomialMultiplicationModuloTheAesPolynomial : Prop :=
  ∀ poly : Byte → Polynomial (ZMod 2),
    (∀ a : Byte, poly a = ∑ i ∈ Finset.range 8, if a.getLsbD i then Polynomial.X ^ i else 0) →
    ∀ a b : Byte,
      (Polynomial.X ^ 8 + Polynomial.X ^ 4 + Polynomial.X ^ 3 + Polynomial.X + 1 : Polynomial (ZMod 2)) ∣
        poly a * poly b - poly (gmul a b)

/-- The field laws of 41_galois_field.md R124. -/
def Obligations.GmulFieldLaws : Prop :=
  (∀ a b : Byte, gmul a b = gmul b a) ∧
  (∀ a b c : Byte, gmul (gmul a b) c = gmul a (gmul b c)) ∧
  (∀ a b c : Byte, gmul a (b ^^^ c) = gmul a b ^^^ gmul a c) ∧
  (∀ a : Byte, gmul a 0x01#8 = a ∧ gmul 0x01#8 a = a ∧ gmul a 0x00#8 = 0x00#8 ∧ gmul 0x00#8 a = 0x00#8) ∧
  (∀ a : Byte, a ≠ 0x00#8 → ∃ b : Byte, gmul a b = 0x01#8 ∧ ∀ c : Byte, gmul a c = 0x01#8 → c = b)

/-- The S-box is a bijection with no fixed point (41_galois_field.md R126), and its table agrees with the algebraic
definition beside it (R125): the affine map of the field inverse, 0 for 0. The table and that definition are the spec's
own, from general knowledge ("Its values are not in the source", R125; log 7). -/
def Obligations.SboxIsABijectionAndTheAffineMapOfTheInverse : Prop :=
  Function.Bijective sbox ∧ (∀ x : Byte, sbox x ≠ x) ∧
  ∀ affine : Byte → Byte,
    (∀ (y : Byte) (i : Nat), i < 8 → (affine y).getLsbD i =
      (y.getLsbD i ^^ y.getLsbD ((i + 4) % 8) ^^ y.getLsbD ((i + 5) % 8) ^^ y.getLsbD ((i + 6) % 8) ^^
        y.getLsbD ((i + 7) % 8) ^^ (0x63#8).getLsbD i)) →
    sbox 0x00#8 = affine 0x00#8 ∧ ∀ x y : Byte, gmul x y = 0x01#8 → sbox x = affine y

/-- pad_block keeps the first `n` bytes and fills the rest with `16 - n`, and it is what `pad` appends to the whole
blocks before (45_padding.md R220, R221). -/
def Obligations.PadBlockIsTheLastBlockOfPad : Prop :=
  (∀ (d : Block) (n : Nat) (k : Fin 16), n ≤ 15 →
    (padBlock d n).unpack k = if k.val < n then d.unpack k else BitVec.ofNat 8 (16 - n)) ∧
  (∀ (data : List Byte) (d : Block),
    (∀ k : Fin 16, k.val < data.length % 16 →
      some (d.unpack k) = data[data.length - data.length % 16 + k.val]?) →
    pad data = data.take (data.length - data.length % 16) ++
      (List.finRange 16).map (padBlock d (data.length % 16)).unpack) ∧
  (∀ data : List Byte, (pad data).length = data.length + (16 - data.length % 16) ∧ (pad data).length % 16 = 0)

/-- Packing is a bijection between sixteen bytes and four registers, big-endian and column-major (00_scope.md R13,
R15). -/
def Obligations.PackAndUnpackAreInverse : Prop :=
  (∀ b : Block, Block.pack b.unpack = b) ∧
  (∀ (v : Fin 16 → Byte) (i : Fin 16), (Block.pack v).unpack i = v i) ∧
  (∀ (v : Fin 16 → Byte) (j : Fin 4) (i0 i1 i2 i3 : Fin 16), i0.val = 4 * j.val → i1.val = 4 * j.val + 1 →
    i2.val = 4 * j.val + 2 → i3.val = 4 * j.val + 3 → (Block.pack v).get j = v i0 ++ v i1 ++ v i2 ++ v i3) ∧
  (∀ (b : Block) (r c : Fin 4) (i : Fin 16), i.val = 4 * c.val + r.val → b.byte r c = b.unpack i) ∧
  (∀ (b : Block) (r c : Fin 4), b.byte r c = (b.get c).extractLsb' (24 - 8 * r.val) 8)

/-! ## The register port -/

/-- The register table of 10_state.md R21, with no aliases (R41): each register is at the table's offset, and at its own,
and an offset that answers is some register's. -/
def Obligations.RegisterMapHasNoAliases : Prop :=
  (Reg.id.offset = 0x000#12 ∧ Reg.ctrl.offset = 0x004#12 ∧ Reg.status.offset = 0x008#12 ∧ Reg.errcode.offset = 0x00C#12 ∧
    Reg.cmd.offset = 0x010#12 ∧ Reg.irqEn.offset = 0x014#12 ∧ Reg.irqStatus.offset = 0x018#12 ∧
    Reg.gfOps.offset = 0x01C#12 ∧ Reg.gfRes.offset = 0x020#12) ∧
  (∀ j : Fin 4, (Reg.key j).offset.toNat = 0x030 + 4 * j.val ∧ (Reg.din j).offset.toNat = 0x040 + 4 * j.val ∧
    (Reg.dout j).offset.toNat = 0x050 + 4 * j.val ∧ (Reg.state j).offset.toNat = 0x060 + 4 * j.val) ∧
  (∀ i : Fin 44, (Reg.rk i).offset.toNat = 0x100 + 4 * i.val) ∧
  (∀ r : Reg, regAt r.offset = some r) ∧ (∀ (a : BitVec 12) (r : Reg), regAt a = some r → a = r.offset)

/-- 20_memory.md R56 (the illegal accesses of R55): pslverr, read data 0, and nothing else changes. -/
def Obligations.IllegalAccessesOnlyAnswerAnError : Prop :=
  (∀ (s : State) (a : BitVec 12) (es : List Event), s.rstN = true → s.events = .bus (.read a) :: es →
    a.toNat % 4 ≠ 0 → step s = .next (s.served es (.readDone 0#32 true))) ∧
  (∀ (s : State) (a : BitVec 12) (v : Word) (strb : BitVec 4) (es : List Event), s.rstN = true →
    s.events = .bus (.write a v strb) :: es → (a.toNat % 4 ≠ 0 ∨ strb ≠ 0b1111#4) →
    step s = .next (s.served es (.writeDone true)))

/-- 20_memory.md R57: reserved offsets read 0 and ignore writes, without an error, and they are all the aligned offsets
at which there is no register. -/
def Obligations.ReservedOffsetsReadZeroAndIgnoreWrites : Prop :=
  (∀ a : BitVec 12, a.toNat % 4 = 0 → (regAt a = none ↔ ReservedOffset a)) ∧
  (∀ (s : State) (a : BitVec 12) (es : List Event), s.rstN = true → s.events = .bus (.read a) :: es →
    ReservedOffset a → step s = .next (s.served es (.readDone 0#32 false))) ∧
  (∀ (s : State) (a : BitVec 12) (v : Word) (es : List Event), s.rstN = true →
    s.events = .bus (.write a v 0b1111#4) :: es → ReservedOffset a → step s = .next (s.served es (.writeDone false)))

/-- 20_memory.md R58: a write to a read-only register is ignored and is no error. -/
def Obligations.ReadOnlyRegistersIgnoreWrites : Prop :=
  ∀ (s : State) (r : Reg) (v : Word) (es : List Event), s.rstN = true → s.events = wr r v :: es →
    (r = .id ∨ r = .errcode ∨ r = .gfRes ∨ (∃ j, r = .dout j) ∨ (∃ j, r = .state j) ∨ (∃ i, r = .rk i)) →
    step s = .next (s.served es (.writeDone false))

/-- 20_memory.md R59: a legal read changes no state, and a second read of any offset gives the same value. A read at a
register's offset answers what that register reads (30_encoding.md R92: `RD <reg>`; 10_state.md R21). -/
def Obligations.ReadsHaveNoSideEffect : Prop :=
  (∀ (s : State) (a : BitVec 12) (es : List Event), s.rstN = true → s.events = .bus (.read a) :: es → a.toNat % 4 = 0 →
    step s = .next (s.served es (.readDone (readOffset s a) false)) ∧
    ∀ b : BitVec 12, readOffset (s.served es (.readDone (readOffset s a) false)) b = readOffset s b) ∧
  (∀ (s : State) (r : Reg), readOffset s r.offset = readReg s r) ∧
  (∀ (s : State) (r : Reg) (es : List Event), s.rstN = true → s.events = rd r :: es →
    step s = .next (s.served es (.readDone (readReg s r) false)))

/-- The read-write registers IRQ_EN, GF_OPS, KEYn and DINn "only store the value" (20_memory.md R59; 10_state.md R28,
R31, R33, R34): the register reads back what was written, reserved bits 0, every other register reads as before, and the
hidden state is as before, busy or idle. -/
def Obligations.ReadWriteRegistersOnlyStoreTheValue : Prop :=
  ∀ (s : State) (r : Reg) (v m : Word) (es : List Event), s.rstN = true → s.events = wr r v :: es →
    storedBits r = some m →
    ∃ t, step s = .next t ∧ readReg t r = v &&& m ∧ (∀ r', r' ≠ r → readReg t r' = readReg s r') ∧
      t.pending = s.pending ∧ t.state = s.state ∧ t.rk = s.rk ∧ t.ctrlSrst = s.ctrlSrst ∧ t.rstN = true ∧
      t.events = es ∧ t.response = some (.writeDone false) ∧ t.draws = s.draws

/-- What the registers read (10_state.md R22 to R29, R31, R32, R36, R37; 40_command_issue.md R104): CTRL and CMD read 0,
reserved bits read 0, STATE reads 0 while BUSY and RK reads 0 while KS_VALID = 0. -/
def Obligations.RegistersReadAsTheirTablesSay : Prop :=
  ∀ s : State,
    readReg s .id = 0x41455331#32 ∧ readReg s .ctrl = 0#32 ∧ readReg s .cmd = 0#32 ∧
    (∀ n : Nat, (readReg s .status).getLsbD n =
      ((n = 0 && s.busy) || (n = 1 && s.ksValid) || (n = 2 && s.err) || (n = 3 && s.errOvf))) ∧
    (readReg s .errcode).extractLsb' 0 4 = s.errCode ∧ (readReg s .errcode).extractLsb' 4 4 = 0#4 ∧
    (readReg s .errcode).extractLsb' 8 5 = s.errOp ∧ (readReg s .errcode).extractLsb' 13 19 = 0#19 ∧
    (∀ n : Nat, (readReg s .irqEn).getLsbD n = ((n = 0 && s.irqEn.done) || (n = 1 && s.irqEn.err))) ∧
    (∀ n : Nat, (readReg s .irqStatus).getLsbD n = ((n = 0 && s.irqStatus.done) || (n = 1 && s.irqStatus.err))) ∧
    (readReg s .gfOps).extractLsb' 0 8 = s.gfA ∧ (readReg s .gfOps).extractLsb' 8 8 = s.gfB ∧
    (readReg s .gfOps).extractLsb' 16 16 = 0#16 ∧ readReg s .gfRes = s.gfRes.setWidth 32 ∧
    (∀ j, readReg s (.key j) = s.key.get j) ∧ (∀ j, readReg s (.din j) = s.din.get j) ∧
    (∀ j, readReg s (.dout j) = s.dout.get j) ∧
    (∀ j, (s.busy = true → readReg s (.state j) = 0#32) ∧ (s.busy = false → readReg s (.state j) = s.state.get j)) ∧
    (∀ i, (s.ksValid = false → readReg s (.rk i) = 0#32) ∧ (s.ksValid = true → readReg s (.rk i) = s.rk[i]))

/-- A STATUS write with bit 2 = 1 clears the error record, every other bit is ignored, and IRQ_STATUS is not touched
(10_state.md R25). An IRQ_STATUS write clears the bits written as 1, and only them, and changes nothing else (R29;
60_exceptions.md R250). -/
def Obligations.StatusAndIrqStatusWritesClear : Prop :=
  (∀ (s : State) (v : Word) (es : List Event), s.rstN = true → s.events = wr .status v :: es →
    (v.getLsbD 2 = true → step s = .next { s.served es (.writeDone false) with
      err := false, errOvf := false, errCode := 0#4, errOp := 0#5 }) ∧
    (v.getLsbD 2 = false → step s = .next (s.served es (.writeDone false)))) ∧
  (∀ (s : State) (v : Word) (es : List Event), s.rstN = true → s.events = wr .irqStatus v :: es →
    ∃ t, step s = .next t ∧ readReg t .irqStatus = readReg s .irqStatus &&& ~~~ v ∧
      t = { s.served es (.writeDone false) with irqStatus := t.irqStatus })

/-- 60_exceptions.md R248: irq is the OR of the enabled pending sources, as the registers read. -/
def Obligations.IrqIsTheLevelOfEnabledPendingSources : Prop :=
  ∀ s : State, s.irq = true ↔ readReg s .irqStatus &&& readReg s .irqEn ≠ 0#32

/-! ## Reset -/

/-- 70_reset_and_hazards.md R281: what the registers read in the reset state, and that the core is idle with irq
deasserted. -/
def Obligations.ResetStateReadsAsStated : Prop :=
  readReg State.reset .id = 0x41455331#32 ∧ (∀ r : Reg, r ≠ .id → readReg State.reset r = 0#32) ∧
  State.reset.pending = none ∧ State.reset.busy = false ∧ State.reset.irq = false

/-- The pin and the clock. An edge with `rst_n = 0` puts every register but `rk` at its reset value, and discards the
pending command with none of its writes and without DONE (70_reset_and_hazards.md R280, R284). When `rst_n` goes high
nothing but the pin and the events to come changes, so that "the first bus access sees the reset state" (R280). With
`rst_n` high and nothing pending, a step without a transaction holds every register (60_exceptions.md R260); that a
completion event with nothing pending, and a step with no event left, are such steps is the model's choice (log 2). -/
def Obligations.HardwareResetResetsEveryRegister : Prop :=
  (∀ (s : State) (es : List Event), s.events = .rstLow :: es →
    ∃ t, step s = .next t ∧ RegistersReset t ∧ t.rstN = false ∧ t.events = es) ∧
  (∀ (s : State) (es : List Event), s.events = .rstHigh :: es →
    step s = .next { s with rstN := true, events := es }) ∧
  (∀ (s : State) (es : List Event), s.rstN = true → s.pending = none → s.events = .completion :: es →
    step s = .next { s with events := es }) ∧
  (∀ s : State, s.rstN = true → s.pending = none → s.events = [] → step s = .next s)

/-- 70_reset_and_hazards.md R283 and R284: a CTRL write with bit 0 = 1 resets at that write, is answered normally and
discards a pending command; with bit 0 = 0 it has no effect. ID and CTRL read as before. -/
def Obligations.SoftResetResetsAtTheWrite : Prop :=
  ∀ (s : State) (v : Word) (es : List Event), s.rstN = true → s.events = wr .ctrl v :: es →
    (v.getLsbD 0 = true → ∃ t, step s = .next t ∧ RegistersReset t ∧ t.rstN = true ∧ t.events = es ∧
      t.response = some (.writeDone false) ∧ readReg t .id = 0x41455331#32 ∧ readReg t .ctrl = 0#32) ∧
    (v.getLsbD 0 = false → step s = .next (s.served es (.writeDone false)))

/-- 70_reset_and_hazards.md R282: while KS_VALID = 0 no read, no command and no other event can observe `rk`. Two
machines that differ only there answer alike and go on to differ only there, or not at all. -/
def Obligations.RoundKeyStorageIsUnobservableUntilValid : Prop :=
  ∀ (s : State) (r : Vector Word 44), Inv s → s.ksValid = false →
    (step s = .fault .accessDuringReset ∧ step { s with rk := r } = .fault .accessDuringReset) ∨
    ∃ t, step s = .next t ∧
      (step { s with rk := r } = .next t ∨
        (t.ksValid = false ∧ t.rk = s.rk ∧ step { s with rk := r } = .next { t with rk := r }))

/-! ## Invariants and whole-machine rules -/

/-- Every step keeps the invariant. -/
def Obligations.EveryStepKeepsTheInvariant : Prop := ∀ s t : State, Inv s → step s = .next t → Inv t

/-- The reset state meets the invariant. -/
def Obligations.ResetMeetsTheInvariant : Prop := Inv State.reset

/-- 42_key_schedule.md R146 and 10_state.md R24: a valid schedule does not change while it stays valid, and KS_VALID
becomes 1 only at a completion of EXPAND_KEY, which stores the whole schedule. -/
def Obligations.ScheduleChangesOnlyByExpandKeyOrReset : Prop :=
  ∀ s t : State, Inv s → step s = .next t →
    (s.ksValid = true → t.ksValid = true → t.rk = s.rk) ∧
    (s.ksValid = true → t.ksValid = false → RegistersReset t ∨
      ∃ p v es, t.pending = some p ∧ p.op = 0x01#5 ∧ s.events = wr .cmd v :: es) ∧
    (s.ksValid = false → t.ksValid = true →
      ∃ p, s.pending = some p ∧ p.op = 0x01#5 ∧ p.commit = scheduleWrites t.rk ∧ t.pending = none)

/-- 10_state.md R33, R34: "No command writes them": KEY and DIN change only by a host write to them or a reset. -/
def Obligations.OnlyTheHostWritesKeyAndDin : Prop :=
  ∀ s t : State, step s = .next t →
    (t.key ≠ s.key → RegistersReset t ∨ ∃ j v es, s.events = wr (.key j) v :: es) ∧
    (t.din ≠ s.din → RegistersReset t ∨ ∃ j v es, s.events = wr (.din j) v :: es)

/-- 10_state.md R32, R35, R36: DOUT, STATE and GF_RES change only at the completion of a command that 30_encoding.md R86
lets write them, or at a reset. -/
def Obligations.ResultRegistersChangeOnlyAtTheirCompletions : Prop :=
  ∀ s t : State, Inv s → step s = .next t →
    (t.dout ≠ s.dout → RegistersReset t ∨
      ∃ p, s.pending = some p ∧ t.pending = none ∧ t.irqStatus.done = true ∧ p.op ∈ [0x02#5, 0x04#5, 0x0B#5]) ∧
    (t.state ≠ s.state → RegistersReset t ∨
      ∃ p, s.pending = some p ∧ t.pending = none ∧ t.irqStatus.done = true ∧
        p.op ∈ [0x02#5, 0x03#5, 0x05#5, 0x06#5, 0x07#5, 0x08#5, 0x09#5]) ∧
    (t.gfRes ≠ s.gfRes → RegistersReset t ∨
      ∃ p, s.pending = some p ∧ t.pending = none ∧ t.irqStatus.done = true ∧ p.op = 0x0A#5)

/-- 60_exceptions.md R263, 20_memory.md R60 and 30_encoding.md R92: a step of one core is that core's own step and leaves
every other core as it was; on a platform whose BASEs are aligned and distinct no address is claimed by two cores, and a
transaction at BASE + offset reaches the core at that BASE, at that offset, and no other. That it is placed after the
events already to come is the model's choice (log 11). -/
def Obligations.CoresOfAPlatformAreIndependent : Prop :=
  (∀ (p : Platform) (k : Nat) (x : Instance) (s : State), p[k]? = some x → step x.core = .next s →
    ∃ p', p.stepInstance k = .next p' ∧ p'[k]? = some ⟨x.base, s⟩) ∧
  (∀ (p p' : Platform) (k j : Nat), p.stepInstance k = .next p' → j ≠ k → p'[j]? = p[j]?) ∧
  (∀ (p : Platform) (addr : Nat) (j k : Nat) (x y : Instance), p.wf = true → p[j]? = some x → p[k]? = some y →
    x.claims addr = true → y.claims addr = true → j = k) ∧
  (∀ (p : Platform) (j : Nat) (x : Instance) (offset : BitVec 12) (t : BitVec 12 → Transaction), p.wf = true →
    p[j]? = some x →
    (p.place (x.base + offset.toNat) t)[j]? =
      some ⟨x.base, { x.core with events := x.core.events ++ [.bus (t offset)] }⟩ ∧
    ∀ k, k ≠ j → (p.place (x.base + offset.toNat) t)[k]? = p[k]?)
end

