-- ==== Sys2Proof/Laws/Operands.lean ====
section
/-! SUPPORT. The byte order of words and blocks (00_scope.md R12, R13, R15): packing and unpacking are inverse, and
element and byte access of blocks. -/

namespace Sys2Proof

open Machine

@[simp] theorem byteOf_wordOf (a b c d : Byte) (r : Fin 4) :
    byteOf (wordOf a b c d) r = match r with | 0 => a | 1 => b | 2 => c | 3 => d := by
  fin_cases r <;> simp only [byteOf, wordOf] <;> ext i hi <;> simp <;> grind

theorem wordOf_byteOf (w : Word) : wordOf (byteOf w 0) (byteOf w 1) (byteOf w 2) (byteOf w 3) = w := by
  simp only [wordOf, byteOf]
  ext i hi
  simp
  grind

@[simp] theorem Block.get_ofFn (f : Fin 4 → Word) (c : Fin 4) : (Block.ofFn f).get c = f c := by fin_cases c <;> rfl

@[simp] theorem Block.ofFn_get (b : Block) : Block.ofFn b.get = b := rfl

/-- Two blocks with equal elements are equal. -/
theorem Block.ext_get {a b : Block} (h : ∀ c, a.get c = b.get c) : a = b := by
  rw [← Block.ofFn_get a, ← Block.ofFn_get b, funext h]

@[simp] theorem Block.byte_ofBytes (f : Fin 4 → Fin 4 → Byte) (r c : Fin 4) : (Block.ofBytes f).byte r c = f r c := by
  simp only [Block.byte, Block.ofBytes, Block.get_ofFn, byteOf_wordOf]
  fin_cases r <;> rfl

@[simp] theorem Block.ofBytes_byte (b : Block) : Block.ofBytes b.byte = b :=
  Block.ext_get fun c => by simp [Block.ofBytes, Block.byte, wordOf_byteOf]

/-- Two blocks with equal bytes are equal. -/
theorem Block.ext_byte {a b : Block} (h : ∀ r c, a.byte r c = b.byte r c) : a = b := by
  rw [← Block.ofBytes_byte a, ← Block.ofBytes_byte b, funext fun r => funext (h r)]

@[simp] theorem Block.get_set (b : Block) (c c' : Fin 4) (v : Word) :
    (b.set c v).get c' = if c' = c then v else b.get c' := by
  fin_cases c <;> fin_cases c' <;> rfl

end Sys2Proof
end

