-- ==== Sys2Proof/Laws/State.lean ====
section
/-! SUPPORT. One lemma per field per shared update of State, so that no proof unfolds a record update: what each
operation of Machine/Ops.lean does to the field, or that it leaves it alone. -/

namespace Sys2Proof.Machine

/-! ## Served transactions -/

@[simp] theorem served_ctrlSrst (s : State) (es : List Event) (r : BusResponse) : (s.served es r).ctrlSrst = s.ctrlSrst := rfl
@[simp] theorem served_busy (s : State) (es : List Event) (r : BusResponse) : (s.served es r).busy = s.busy := rfl
@[simp] theorem served_ksValid (s : State) (es : List Event) (r : BusResponse) : (s.served es r).ksValid = s.ksValid := rfl
@[simp] theorem served_err (s : State) (es : List Event) (r : BusResponse) : (s.served es r).err = s.err := rfl
@[simp] theorem served_errOvf (s : State) (es : List Event) (r : BusResponse) : (s.served es r).errOvf = s.errOvf := rfl
@[simp] theorem served_errCode (s : State) (es : List Event) (r : BusResponse) : (s.served es r).errCode = s.errCode := rfl
@[simp] theorem served_errOp (s : State) (es : List Event) (r : BusResponse) : (s.served es r).errOp = s.errOp := rfl
@[simp] theorem served_irqEn (s : State) (es : List Event) (r : BusResponse) : (s.served es r).irqEn = s.irqEn := rfl
@[simp] theorem served_irqStatus (s : State) (es : List Event) (r : BusResponse) : (s.served es r).irqStatus = s.irqStatus := rfl
@[simp] theorem served_gfA (s : State) (es : List Event) (r : BusResponse) : (s.served es r).gfA = s.gfA := rfl
@[simp] theorem served_gfB (s : State) (es : List Event) (r : BusResponse) : (s.served es r).gfB = s.gfB := rfl
@[simp] theorem served_gfRes (s : State) (es : List Event) (r : BusResponse) : (s.served es r).gfRes = s.gfRes := rfl
@[simp] theorem served_key (s : State) (es : List Event) (r : BusResponse) : (s.served es r).key = s.key := rfl
@[simp] theorem served_din (s : State) (es : List Event) (r : BusResponse) : (s.served es r).din = s.din := rfl
@[simp] theorem served_dout (s : State) (es : List Event) (r : BusResponse) : (s.served es r).dout = s.dout := rfl
@[simp] theorem served_state (s : State) (es : List Event) (r : BusResponse) : (s.served es r).state = s.state := rfl
@[simp] theorem served_rk (s : State) (es : List Event) (r : BusResponse) : (s.served es r).rk = s.rk := rfl
@[simp] theorem served_pending (s : State) (es : List Event) (r : BusResponse) : (s.served es r).pending = s.pending := rfl
@[simp] theorem served_rstN (s : State) (es : List Event) (r : BusResponse) : (s.served es r).rstN = s.rstN := rfl
@[simp] theorem served_events (s : State) (es : List Event) (r : BusResponse) : (s.served es r).events = es := rfl
@[simp] theorem served_response (s : State) (es : List Event) (r : BusResponse) : (s.served es r).response = some r := rfl
@[simp] theorem served_draws (s : State) (es : List Event) (r : BusResponse) : (s.served es r).draws = s.draws := rfl

/-! ## Command errors -/

@[simp] theorem raiseCmdError_ctrlSrst (e : ErrorCode) (op : BitVec 5) (s : State) : (raiseCmdError e op s).ctrlSrst = s.ctrlSrst := by
  unfold raiseCmdError; split <;> rfl
@[simp] theorem raiseCmdError_busy (e : ErrorCode) (op : BitVec 5) (s : State) : (raiseCmdError e op s).busy = s.busy := by
  unfold raiseCmdError; split <;> rfl
@[simp] theorem raiseCmdError_ksValid (e : ErrorCode) (op : BitVec 5) (s : State) : (raiseCmdError e op s).ksValid = s.ksValid := by
  unfold raiseCmdError; split <;> rfl
@[simp] theorem raiseCmdError_err (e : ErrorCode) (op : BitVec 5) (s : State) : (raiseCmdError e op s).err = true := by
  unfold raiseCmdError; cases h : s.err <;> simp
@[simp] theorem raiseCmdError_errOvf (e : ErrorCode) (op : BitVec 5) (s : State) : (raiseCmdError e op s).errOvf = (s.err || s.errOvf) := by
  unfold raiseCmdError; cases h : s.err <;> simp
@[simp] theorem raiseCmdError_errCode (e : ErrorCode) (op : BitVec 5) (s : State) : (raiseCmdError e op s).errCode = if s.err then s.errCode else e.toBits := by
  unfold raiseCmdError; cases h : s.err <;> simp
@[simp] theorem raiseCmdError_errOp (e : ErrorCode) (op : BitVec 5) (s : State) : (raiseCmdError e op s).errOp = if s.err then s.errOp else op := by
  unfold raiseCmdError; cases h : s.err <;> simp
@[simp] theorem raiseCmdError_irqEn (e : ErrorCode) (op : BitVec 5) (s : State) : (raiseCmdError e op s).irqEn = s.irqEn := by
  unfold raiseCmdError; split <;> rfl
@[simp] theorem raiseCmdError_irqStatus (e : ErrorCode) (op : BitVec 5) (s : State) : (raiseCmdError e op s).irqStatus = ⟨s.irqStatus.done, true⟩ := by
  unfold raiseCmdError; split <;> rfl
@[simp] theorem raiseCmdError_gfA (e : ErrorCode) (op : BitVec 5) (s : State) : (raiseCmdError e op s).gfA = s.gfA := by
  unfold raiseCmdError; split <;> rfl
@[simp] theorem raiseCmdError_gfB (e : ErrorCode) (op : BitVec 5) (s : State) : (raiseCmdError e op s).gfB = s.gfB := by
  unfold raiseCmdError; split <;> rfl
@[simp] theorem raiseCmdError_gfRes (e : ErrorCode) (op : BitVec 5) (s : State) : (raiseCmdError e op s).gfRes = s.gfRes := by
  unfold raiseCmdError; split <;> rfl
@[simp] theorem raiseCmdError_key (e : ErrorCode) (op : BitVec 5) (s : State) : (raiseCmdError e op s).key = s.key := by
  unfold raiseCmdError; split <;> rfl
@[simp] theorem raiseCmdError_din (e : ErrorCode) (op : BitVec 5) (s : State) : (raiseCmdError e op s).din = s.din := by
  unfold raiseCmdError; split <;> rfl
@[simp] theorem raiseCmdError_dout (e : ErrorCode) (op : BitVec 5) (s : State) : (raiseCmdError e op s).dout = s.dout := by
  unfold raiseCmdError; split <;> rfl
@[simp] theorem raiseCmdError_state (e : ErrorCode) (op : BitVec 5) (s : State) : (raiseCmdError e op s).state = s.state := by
  unfold raiseCmdError; split <;> rfl
@[simp] theorem raiseCmdError_rk (e : ErrorCode) (op : BitVec 5) (s : State) : (raiseCmdError e op s).rk = s.rk := by
  unfold raiseCmdError; split <;> rfl
@[simp] theorem raiseCmdError_pending (e : ErrorCode) (op : BitVec 5) (s : State) : (raiseCmdError e op s).pending = s.pending := by
  unfold raiseCmdError; split <;> rfl
@[simp] theorem raiseCmdError_rstN (e : ErrorCode) (op : BitVec 5) (s : State) : (raiseCmdError e op s).rstN = s.rstN := by
  unfold raiseCmdError; split <;> rfl
@[simp] theorem raiseCmdError_events (e : ErrorCode) (op : BitVec 5) (s : State) : (raiseCmdError e op s).events = s.events := by
  unfold raiseCmdError; split <;> rfl
@[simp] theorem raiseCmdError_response (e : ErrorCode) (op : BitVec 5) (s : State) : (raiseCmdError e op s).response = s.response := by
  unfold raiseCmdError; split <;> rfl
@[simp] theorem raiseCmdError_draws (e : ErrorCode) (op : BitVec 5) (s : State) : (raiseCmdError e op s).draws = s.draws := by
  unfold raiseCmdError; split <;> rfl

/-! ## DONE -/

@[simp] theorem setDone_ctrlSrst (s : State) : (setDone s).ctrlSrst = s.ctrlSrst := rfl
@[simp] theorem setDone_busy (s : State) : (setDone s).busy = s.busy := rfl
@[simp] theorem setDone_ksValid (s : State) : (setDone s).ksValid = s.ksValid := rfl
@[simp] theorem setDone_err (s : State) : (setDone s).err = s.err := rfl
@[simp] theorem setDone_errOvf (s : State) : (setDone s).errOvf = s.errOvf := rfl
@[simp] theorem setDone_errCode (s : State) : (setDone s).errCode = s.errCode := rfl
@[simp] theorem setDone_errOp (s : State) : (setDone s).errOp = s.errOp := rfl
@[simp] theorem setDone_irqEn (s : State) : (setDone s).irqEn = s.irqEn := rfl
@[simp] theorem setDone_irqStatus (s : State) : (setDone s).irqStatus = ⟨true, s.irqStatus.err⟩ := rfl
@[simp] theorem setDone_gfA (s : State) : (setDone s).gfA = s.gfA := rfl
@[simp] theorem setDone_gfB (s : State) : (setDone s).gfB = s.gfB := rfl
@[simp] theorem setDone_gfRes (s : State) : (setDone s).gfRes = s.gfRes := rfl
@[simp] theorem setDone_key (s : State) : (setDone s).key = s.key := rfl
@[simp] theorem setDone_din (s : State) : (setDone s).din = s.din := rfl
@[simp] theorem setDone_dout (s : State) : (setDone s).dout = s.dout := rfl
@[simp] theorem setDone_state (s : State) : (setDone s).state = s.state := rfl
@[simp] theorem setDone_rk (s : State) : (setDone s).rk = s.rk := rfl
@[simp] theorem setDone_pending (s : State) : (setDone s).pending = s.pending := rfl
@[simp] theorem setDone_rstN (s : State) : (setDone s).rstN = s.rstN := rfl
@[simp] theorem setDone_events (s : State) : (setDone s).events = s.events := rfl
@[simp] theorem setDone_response (s : State) : (setDone s).response = s.response := rfl
@[simp] theorem setDone_draws (s : State) : (setDone s).draws = s.draws := rfl

/-! ## Acceptance -/

@[simp] theorem accept_ctrlSrst (op : BitVec 5) (ws : List RegWrite) (s : State) : (accept op ws s).ctrlSrst = s.ctrlSrst := rfl
@[simp] theorem accept_busy (op : BitVec 5) (ws : List RegWrite) (s : State) : (accept op ws s).busy = true := rfl
@[simp] theorem accept_ksValid (op : BitVec 5) (ws : List RegWrite) (s : State) : (accept op ws s).ksValid = s.ksValid := rfl
@[simp] theorem accept_err (op : BitVec 5) (ws : List RegWrite) (s : State) : (accept op ws s).err = s.err := rfl
@[simp] theorem accept_errOvf (op : BitVec 5) (ws : List RegWrite) (s : State) : (accept op ws s).errOvf = s.errOvf := rfl
@[simp] theorem accept_errCode (op : BitVec 5) (ws : List RegWrite) (s : State) : (accept op ws s).errCode = s.errCode := rfl
@[simp] theorem accept_errOp (op : BitVec 5) (ws : List RegWrite) (s : State) : (accept op ws s).errOp = s.errOp := rfl
@[simp] theorem accept_irqEn (op : BitVec 5) (ws : List RegWrite) (s : State) : (accept op ws s).irqEn = s.irqEn := rfl
@[simp] theorem accept_irqStatus (op : BitVec 5) (ws : List RegWrite) (s : State) : (accept op ws s).irqStatus = s.irqStatus := rfl
@[simp] theorem accept_gfA (op : BitVec 5) (ws : List RegWrite) (s : State) : (accept op ws s).gfA = s.gfA := rfl
@[simp] theorem accept_gfB (op : BitVec 5) (ws : List RegWrite) (s : State) : (accept op ws s).gfB = s.gfB := rfl
@[simp] theorem accept_gfRes (op : BitVec 5) (ws : List RegWrite) (s : State) : (accept op ws s).gfRes = s.gfRes := rfl
@[simp] theorem accept_key (op : BitVec 5) (ws : List RegWrite) (s : State) : (accept op ws s).key = s.key := rfl
@[simp] theorem accept_din (op : BitVec 5) (ws : List RegWrite) (s : State) : (accept op ws s).din = s.din := rfl
@[simp] theorem accept_dout (op : BitVec 5) (ws : List RegWrite) (s : State) : (accept op ws s).dout = s.dout := rfl
@[simp] theorem accept_state (op : BitVec 5) (ws : List RegWrite) (s : State) : (accept op ws s).state = s.state := rfl
@[simp] theorem accept_rk (op : BitVec 5) (ws : List RegWrite) (s : State) : (accept op ws s).rk = s.rk := rfl
@[simp] theorem accept_pending (op : BitVec 5) (ws : List RegWrite) (s : State) : (accept op ws s).pending = some ⟨op, ws⟩ := rfl
@[simp] theorem accept_rstN (op : BitVec 5) (ws : List RegWrite) (s : State) : (accept op ws s).rstN = s.rstN := rfl
@[simp] theorem accept_events (op : BitVec 5) (ws : List RegWrite) (s : State) : (accept op ws s).events = s.events := rfl
@[simp] theorem accept_response (op : BitVec 5) (ws : List RegWrite) (s : State) : (accept op ws s).response = s.response := rfl
@[simp] theorem accept_draws (op : BitVec 5) (ws : List RegWrite) (s : State) : (accept op ws s).draws = s.draws := rfl

/-! ## Clearing the error record -/

@[simp] theorem clearErrors_ctrlSrst (s : State) : (clearErrors s).ctrlSrst = s.ctrlSrst := rfl
@[simp] theorem clearErrors_busy (s : State) : (clearErrors s).busy = s.busy := rfl
@[simp] theorem clearErrors_ksValid (s : State) : (clearErrors s).ksValid = s.ksValid := rfl
@[simp] theorem clearErrors_err (s : State) : (clearErrors s).err = false := rfl
@[simp] theorem clearErrors_errOvf (s : State) : (clearErrors s).errOvf = false := rfl
@[simp] theorem clearErrors_errCode (s : State) : (clearErrors s).errCode = 0#4 := rfl
@[simp] theorem clearErrors_errOp (s : State) : (clearErrors s).errOp = 0#5 := rfl
@[simp] theorem clearErrors_irqEn (s : State) : (clearErrors s).irqEn = s.irqEn := rfl
@[simp] theorem clearErrors_irqStatus (s : State) : (clearErrors s).irqStatus = s.irqStatus := rfl
@[simp] theorem clearErrors_gfA (s : State) : (clearErrors s).gfA = s.gfA := rfl
@[simp] theorem clearErrors_gfB (s : State) : (clearErrors s).gfB = s.gfB := rfl
@[simp] theorem clearErrors_gfRes (s : State) : (clearErrors s).gfRes = s.gfRes := rfl
@[simp] theorem clearErrors_key (s : State) : (clearErrors s).key = s.key := rfl
@[simp] theorem clearErrors_din (s : State) : (clearErrors s).din = s.din := rfl
@[simp] theorem clearErrors_dout (s : State) : (clearErrors s).dout = s.dout := rfl
@[simp] theorem clearErrors_state (s : State) : (clearErrors s).state = s.state := rfl
@[simp] theorem clearErrors_rk (s : State) : (clearErrors s).rk = s.rk := rfl
@[simp] theorem clearErrors_pending (s : State) : (clearErrors s).pending = s.pending := rfl
@[simp] theorem clearErrors_rstN (s : State) : (clearErrors s).rstN = s.rstN := rfl
@[simp] theorem clearErrors_events (s : State) : (clearErrors s).events = s.events := rfl
@[simp] theorem clearErrors_response (s : State) : (clearErrors s).response = s.response := rfl
@[simp] theorem clearErrors_draws (s : State) : (clearErrors s).draws = s.draws := rfl

/-! ## Reset -/

@[simp] theorem doReset_ctrlSrst (s : State) : (doReset s).ctrlSrst = false := rfl
@[simp] theorem doReset_busy (s : State) : (doReset s).busy = false := rfl
@[simp] theorem doReset_ksValid (s : State) : (doReset s).ksValid = false := rfl
@[simp] theorem doReset_err (s : State) : (doReset s).err = false := rfl
@[simp] theorem doReset_errOvf (s : State) : (doReset s).errOvf = false := rfl
@[simp] theorem doReset_errCode (s : State) : (doReset s).errCode = 0#4 := rfl
@[simp] theorem doReset_errOp (s : State) : (doReset s).errOp = 0#5 := rfl
@[simp] theorem doReset_irqEn (s : State) : (doReset s).irqEn = ⟨false, false⟩ := rfl
@[simp] theorem doReset_irqStatus (s : State) : (doReset s).irqStatus = ⟨false, false⟩ := rfl
@[simp] theorem doReset_gfA (s : State) : (doReset s).gfA = 0#8 := rfl
@[simp] theorem doReset_gfB (s : State) : (doReset s).gfB = 0#8 := rfl
@[simp] theorem doReset_gfRes (s : State) : (doReset s).gfRes = 0#8 := rfl
@[simp] theorem doReset_key (s : State) : (doReset s).key = Block.zero := rfl
@[simp] theorem doReset_din (s : State) : (doReset s).din = Block.zero := rfl
@[simp] theorem doReset_dout (s : State) : (doReset s).dout = Block.zero := rfl
@[simp] theorem doReset_state (s : State) : (doReset s).state = Block.zero := rfl
@[simp] theorem doReset_rk (s : State) : (doReset s).rk = drawnSchedule s.draws := rfl
@[simp] theorem doReset_pending (s : State) : (doReset s).pending = none := rfl
@[simp] theorem doReset_rstN (s : State) : (doReset s).rstN = s.rstN := rfl
@[simp] theorem doReset_events (s : State) : (doReset s).events = s.events := rfl
@[simp] theorem doReset_response (s : State) : (doReset s).response = s.response := rfl
@[simp] theorem doReset_draws (s : State) : (doReset s).draws = s.draws + 1 := rfl

@[simp] theorem hardwareReset_ctrlSrst (s : State) : (hardwareReset s).ctrlSrst = false := rfl
@[simp] theorem hardwareReset_busy (s : State) : (hardwareReset s).busy = false := rfl
@[simp] theorem hardwareReset_ksValid (s : State) : (hardwareReset s).ksValid = false := rfl
@[simp] theorem hardwareReset_err (s : State) : (hardwareReset s).err = false := rfl
@[simp] theorem hardwareReset_errOvf (s : State) : (hardwareReset s).errOvf = false := rfl
@[simp] theorem hardwareReset_errCode (s : State) : (hardwareReset s).errCode = 0#4 := rfl
@[simp] theorem hardwareReset_errOp (s : State) : (hardwareReset s).errOp = 0#5 := rfl
@[simp] theorem hardwareReset_irqEn (s : State) : (hardwareReset s).irqEn = ⟨false, false⟩ := rfl
@[simp] theorem hardwareReset_irqStatus (s : State) : (hardwareReset s).irqStatus = ⟨false, false⟩ := rfl
@[simp] theorem hardwareReset_gfA (s : State) : (hardwareReset s).gfA = 0#8 := rfl
@[simp] theorem hardwareReset_gfB (s : State) : (hardwareReset s).gfB = 0#8 := rfl
@[simp] theorem hardwareReset_gfRes (s : State) : (hardwareReset s).gfRes = 0#8 := rfl
@[simp] theorem hardwareReset_key (s : State) : (hardwareReset s).key = Block.zero := rfl
@[simp] theorem hardwareReset_din (s : State) : (hardwareReset s).din = Block.zero := rfl
@[simp] theorem hardwareReset_dout (s : State) : (hardwareReset s).dout = Block.zero := rfl
@[simp] theorem hardwareReset_state (s : State) : (hardwareReset s).state = Block.zero := rfl
@[simp] theorem hardwareReset_rk (s : State) : (hardwareReset s).rk = drawnSchedule s.draws := rfl
@[simp] theorem hardwareReset_pending (s : State) : (hardwareReset s).pending = none := rfl
@[simp] theorem hardwareReset_rstN (s : State) : (hardwareReset s).rstN = false := rfl
@[simp] theorem hardwareReset_events (s : State) : (hardwareReset s).events = s.events := rfl
@[simp] theorem hardwareReset_response (s : State) : (hardwareReset s).response = s.response := rfl
@[simp] theorem hardwareReset_draws (s : State) : (hardwareReset s).draws = s.draws + 1 := rfl

@[simp] theorem releaseReset_ctrlSrst (s : State) : (releaseReset s).ctrlSrst = s.ctrlSrst := rfl
@[simp] theorem releaseReset_busy (s : State) : (releaseReset s).busy = s.busy := rfl
@[simp] theorem releaseReset_ksValid (s : State) : (releaseReset s).ksValid = s.ksValid := rfl
@[simp] theorem releaseReset_err (s : State) : (releaseReset s).err = s.err := rfl
@[simp] theorem releaseReset_errOvf (s : State) : (releaseReset s).errOvf = s.errOvf := rfl
@[simp] theorem releaseReset_errCode (s : State) : (releaseReset s).errCode = s.errCode := rfl
@[simp] theorem releaseReset_errOp (s : State) : (releaseReset s).errOp = s.errOp := rfl
@[simp] theorem releaseReset_irqEn (s : State) : (releaseReset s).irqEn = s.irqEn := rfl
@[simp] theorem releaseReset_irqStatus (s : State) : (releaseReset s).irqStatus = s.irqStatus := rfl
@[simp] theorem releaseReset_gfA (s : State) : (releaseReset s).gfA = s.gfA := rfl
@[simp] theorem releaseReset_gfB (s : State) : (releaseReset s).gfB = s.gfB := rfl
@[simp] theorem releaseReset_gfRes (s : State) : (releaseReset s).gfRes = s.gfRes := rfl
@[simp] theorem releaseReset_key (s : State) : (releaseReset s).key = s.key := rfl
@[simp] theorem releaseReset_din (s : State) : (releaseReset s).din = s.din := rfl
@[simp] theorem releaseReset_dout (s : State) : (releaseReset s).dout = s.dout := rfl
@[simp] theorem releaseReset_state (s : State) : (releaseReset s).state = s.state := rfl
@[simp] theorem releaseReset_rk (s : State) : (releaseReset s).rk = s.rk := rfl
@[simp] theorem releaseReset_pending (s : State) : (releaseReset s).pending = s.pending := rfl
@[simp] theorem releaseReset_rstN (s : State) : (releaseReset s).rstN = true := rfl
@[simp] theorem releaseReset_events (s : State) : (releaseReset s).events = s.events := rfl
@[simp] theorem releaseReset_response (s : State) : (releaseReset s).response = s.response := rfl
@[simp] theorem releaseReset_draws (s : State) : (releaseReset s).draws = s.draws := rfl

/-! ## The snapshot -/

@[simp] theorem snapshot_key (s : State) : (s.snapshot).key = s.key := rfl
@[simp] theorem snapshot_din (s : State) : (s.snapshot).din = s.din := rfl
@[simp] theorem snapshot_state (s : State) : (s.snapshot).state = s.state := rfl
@[simp] theorem snapshot_rk (s : State) : (s.snapshot).rk = s.rk := rfl
@[simp] theorem snapshot_gfA (s : State) : (s.snapshot).gfA = s.gfA := rfl
@[simp] theorem snapshot_gfB (s : State) : (s.snapshot).gfB = s.gfB := rfl
@[simp] theorem snapshot_ksValid (s : State) : (s.snapshot).ksValid = s.ksValid := rfl

end Sys2Proof.Machine
end

