-- ==== Sys2Proof/Laws/Ops.lean ====
section
/-! SUPPORT. What each shared operation can do, said once: a commit's writes, a completion, a command's issue, an event,
and a step. Proofs about `exec` and `step` cite these and do not unfold the operations. -/

namespace Sys2Proof.Machine

/-! ## Commits -/

@[simp] theorem applyCommit_nil (s : State) : applyCommit [] s = s := rfl

@[simp] theorem applyCommit_cons (w : RegWrite) (ws : List RegWrite) (s : State) :
    applyCommit (w :: ws) s = applyCommit ws (applyWrite s w) := rfl

theorem applyCommit_append (ws vs : List RegWrite) (s : State) :
    applyCommit (ws ++ vs) s = applyCommit vs (applyCommit ws s) := by
  simp [applyCommit, List.foldl_append]

/-- `put(x)` leaves STATE at `x` and touches nothing else. -/
@[simp] theorem applyCommit_stateWrites (x : Block) (s : State) :
    applyCommit (stateWrites x) s = { s with state := x } := rfl

/-- The DOUT writes leave DOUT at `x` and touch nothing else. -/
@[simp] theorem applyCommit_doutWrites (x : Block) (s : State) :
    applyCommit (doutWrites x) s = { s with dout := x } := rfl

/-- `rk` after the words of `w` numbered by `is` are written into `r`. -/
def writeWords (w : Vector Word 44) (is : List (Fin 44)) (r : Vector Word 44) : Vector Word 44 :=
  is.foldl (fun (r : Vector Word 44) (i : Fin 44) => r.set i w[i]) r

/-- Writing schedule words one by one touches `rk` only. -/
theorem applyCommit_rkWrites (w : Vector Word 44) (is : List (Fin 44)) (s : State) :
    applyCommit (is.map fun i => .rk i w[i]) s = { s with rk := writeWords w is s.rk } := by
  induction is generalizing s with
  | nil => rfl
  | cons i is ih => rw [List.map_cons, applyCommit_cons, ih]; rfl

theorem getElem_writeWords (w : Vector Word 44) (is : List (Fin 44)) (r : Vector Word 44) (j : Fin 44) :
    (writeWords w is r)[j.val] = if j ∈ is then w[j.val] else r[j.val] := by
  induction is generalizing r with
  | nil => simp [writeWords]
  | cons i is ih =>
    have : writeWords w (i :: is) r = writeWords w is (r.set i w[i]) := rfl
    rw [this, ih]
    by_cases h : j ∈ is
    · simp [h]
    · by_cases hij : i = j
      · subst hij; simp
      · have : i.val ≠ j.val := fun h' => hij (Fin.ext h')
        simp [h, Ne.symm hij, this]

/-- Writing every word of `w` leaves `w`, whatever was there before. -/
theorem writeWords_all (w r : Vector Word 44) : writeWords w (List.finRange 44) r = w := by
  ext j hj
  rw [show (writeWords w (List.finRange 44) r)[j] = _ from getElem_writeWords w _ r ⟨j, hj⟩]
  simp

/-- The schedule's writes leave RK at `w` and KS_VALID at 1 and touch nothing else (42_key_schedule.md R144). -/
@[simp] theorem applyCommit_scheduleWrites (w : Vector Word 44) (s : State) :
    applyCommit (scheduleWrites w) s = { s with rk := w, ksValid := true } := by
  rw [scheduleWrites, applyCommit_append, applyCommit_rkWrites, writeWords_all]
  rfl

/-- A commit touches the five result registers only. -/
theorem applyCommit_frame (ws : List RegWrite) (s : State) :
    ∃ st d rk ks g, applyCommit ws s = { s with state := st, dout := d, rk := rk, ksValid := ks, gfRes := g } := by
  induction ws generalizing s with
  | nil => exact ⟨_, _, _, _, _, rfl⟩
  | cons w ws ih => cases w <;> simp only [applyCommit_cons, applyWrite] <;> exact ih _

/-! ## The core's own step -/

theorem internalEdge_low {s : State} (h : s.rstN = false) : internalEdge s = doReset s := by simp [internalEdge, h]

theorem internalEdge_idle {s : State} (h : s.rstN = true) (hp : s.pending = none) : internalEdge s = s := by
  simp [internalEdge, h, hp]

theorem internalEdge_pending {s : State} {p : Pending} (h : s.rstN = true) (hp : s.pending = some p) :
    internalEdge s = complete p s := by simp [internalEdge, h, hp]

/-- Everything the core's own step can do. -/
theorem internalEdge_cases (s : State) :
    (s.rstN = false ∧ internalEdge s = doReset s) ∨ (s.rstN = true ∧ s.pending = none ∧ internalEdge s = s) ∨
    (s.rstN = true ∧ ∃ p, s.pending = some p ∧ internalEdge s = complete p s) := by
  cases h : s.rstN with
  | false => exact .inl ⟨rfl, internalEdge_low h⟩
  | true =>
    cases hp : s.pending with
    | none => exact .inr (.inl ⟨rfl, rfl, internalEdge_idle h hp⟩)
    | some p => exact .inr (.inr ⟨rfl, p, rfl, internalEdge_pending h hp⟩)

/-! ## Issue -/

/-- Every command is issued in the one way of 40_command_issue.md R100 to R102: by its opcode, its check, its effect on
the snapshot and its side effect at acceptance. -/
theorem exec_eq_issue (i : Instr) (s : State) :
    exec i s = issue i.opcode (checkOf i s.snapshot)
      (accept i.opcode (effectOf i s.snapshot) (acceptSideEffect i s)) s := by
  cases i <;> rfl

theorem exec_busy (i : Instr) {s : State} (h : s.busy = true) :
    exec i s = .next (raiseCmdError .commandOverrun i.opcode s) := by simp [exec_eq_issue, issue, h]

theorem exec_failed {i : Instr} {s : State} {e : ErrorCode} (h : s.busy = false) (hc : checkOf i s.snapshot = some e) :
    exec i s = .next (failAtOnce e i.opcode s) := by simp [exec_eq_issue, issue, h, hc]

theorem exec_accepted {i : Instr} {s : State} (h : s.busy = false) (hc : checkOf i s.snapshot = none) :
    exec i s = .next (accept i.opcode (effectOf i s.snapshot) (acceptSideEffect i s)) := by
  simp [exec_eq_issue, issue, h, hc]

/-- Everything the CMD write of a command can do: overrun, failure at once, or acceptance (40_command_issue.md R105). -/
theorem exec_cases (i : Instr) (s : State) :
    (s.busy = true ∧ exec i s = .next (raiseCmdError .commandOverrun i.opcode s)) ∨
    (s.busy = false ∧ ∃ e, checkOf i s.snapshot = some e ∧ exec i s = .next (failAtOnce e i.opcode s)) ∨
    (s.busy = false ∧ checkOf i s.snapshot = none ∧
      exec i s = .next (accept i.opcode (effectOf i s.snapshot) (acceptSideEffect i s))) := by
  cases h : s.busy with
  | true => exact .inl ⟨rfl, exec_busy i h⟩
  | false =>
    cases hc : checkOf i s.snapshot with
    | some e => exact .inr (.inl ⟨rfl, e, rfl, exec_failed h hc⟩)
    | none => exact .inr (.inr ⟨rfl, rfl, exec_accepted h hc⟩)

/-- Acceptance touches KS_VALID at most. -/
theorem acceptSideEffect_eq (i : Instr) (s : State) : ∃ b, acceptSideEffect i s = { s with ksValid := b } := by
  cases i <;> exact ⟨_, rfl⟩

/-- Every command's commit is one its opcode may make (30_encoding.md R86). -/
theorem effectOf_legal (i : Instr) (snap : Snapshot) : LegalCommit i.opcode (effectOf i snap) := by
  cases i <;> first | exact ⟨_, rfl⟩ | rfl

/-! ## Events and steps -/

theorem step_nil {s : State} (h : s.events = []) : step s = .next (internalEdge s) := by simp [step, nextEvent, h]

theorem step_completion {s : State} {es : List Event} (h : s.events = .completion :: es) :
    step s = .next (internalEdge { s with events := es }) := by simp [step, nextEvent, h, handleEvent]

theorem step_rstLow {s : State} {es : List Event} (h : s.events = .rstLow :: es) :
    step s = .next (hardwareReset { s with events := es }) := by simp [step, nextEvent, h, handleEvent]

theorem step_rstHigh {s : State} {es : List Event} (h : s.events = .rstHigh :: es) :
    step s = .next (releaseReset { s with events := es }) := by simp [step, nextEvent, h, handleEvent]

theorem step_bus_low {s : State} {t : Transaction} {es : List Event} (h : s.events = .bus t :: es)
    (hr : s.rstN = false) : step s = .fault .accessDuringReset := by
  simp [step, nextEvent, h, handleEvent, busTransaction, hr]

/-- Reads and responses do not depend on the events to come nor on the last response. -/
@[simp] theorem readOffset_served (s : State) (es : List Event) (r : BusResponse) (a : BitVec 12) :
    readOffset (s.served es r) a = readOffset s a := by
  simp only [readOffset]
  cases regAt a with
  | none => rfl
  | some g => cases g <;> rfl

@[simp] theorem readReg_events (s : State) (es : List Event) (g : Reg) : readReg { s with events := es } g = readReg s g := by
  cases g <;> rfl

theorem busResponse_events (t : Transaction) (s : State) (es : List Event) :
    busResponse t { s with events := es } = busResponse t s := by
  cases t <;> simp [busResponse, readOffset]

theorem step_bus {s : State} {t : Transaction} {es : List Event} (h : s.events = .bus t :: es) (hr : s.rstN = true) :
    step s = busEffect t (s.served es (busResponse t s)) := by
  simp only [step, nextEvent, h, handleEvent, busTransaction]
  rw [busResponse_events, if_pos hr]
  rfl

theorem step_read {s : State} {a : BitVec 12} {es : List Event} (h : s.events = .bus (.read a) :: es)
    (hr : s.rstN = true) : step s = .next (s.served es (busResponse (.read a) s)) := by
  rw [step_bus h hr]; rfl

/-- Every register is at its own offset (10_state.md R21). -/
@[simp] theorem regAt_offset (r : Reg) : regAt r.offset = some r := by
  cases r with
  | key j => fin_cases j <;> rfl
  | din j => fin_cases j <;> rfl
  | dout j => fin_cases j <;> rfl
  | state j => fin_cases j <;> rfl
  | rk i => fin_cases i <;> rfl
  | _ => rfl

@[simp] theorem aligned_offset (r : Reg) : aligned r.offset = true := by
  cases r with
  | key j => fin_cases j <;> rfl
  | din j => fin_cases j <;> rfl
  | dout j => fin_cases j <;> rfl
  | state j => fin_cases j <;> rfl
  | rk i => fin_cases i <;> rfl
  | _ => rfl

/-- A host write of a register: answered without an error, and then what the register's rule says. -/
theorem step_wr {s : State} {r : Reg} {v : Word} {es : List Event} (h : s.events = wr r v :: es) (hr : s.rstN = true) :
    step s = writeReg r v (s.served es (.writeDone false)) := by
  rw [step_bus h hr]
  simp [busEffect, busResponse, Transaction.legal, writeOffset]

end Sys2Proof.Machine
end

