-- ==== Sys2Proof/Laws/Commands.lean ====
section
/-! SUPPORT. When each command's check passes and when it fails (60_exceptions.md R241), and what its completion does to
the registers. -/

namespace Sys2Proof.Machine

theorem lenOperand_ne {len : BitVec 5} (h : len ≠ 16#5) : lenOperand len ≠ 16 :=
  fun h' => h (BitVec.eq_of_toNat_eq h')

@[simp] theorem checkExpandKey_sixteen (snap : Snapshot) : checkExpandKey 16#5 snap = none := rfl

theorem checkExpandKey_bad {len : BitVec 5} (h : len ≠ 16#5) (snap : Snapshot) :
    checkExpandKey len snap = some .invalidKeyLength := if_pos (lenOperand_ne h)

@[simp] theorem checkLoadState_sixteen (snap : Snapshot) : checkLoadState 16#5 snap = none := rfl

theorem checkLoadState_bad {len : BitVec 5} (h : len ≠ 16#5) (snap : Snapshot) :
    checkLoadState len snap = some .invalidBlockLength := if_pos (lenOperand_ne h)

@[simp] theorem checkEncryptBlock_sixteen (snap : Snapshot) :
    checkEncryptBlock 16#5 snap = if snap.ksValid then none else some .scheduleNotValid := rfl

theorem checkEncryptBlock_bad {len : BitVec 5} (h : len ≠ 16#5) (snap : Snapshot) :
    checkEncryptBlock len snap = some .invalidBlockLength := if_pos (lenOperand_ne h)

theorem checkPad_ok {len : BitVec 5} (h : len.toNat ≤ 15) (snap : Snapshot) : checkPad len snap = none :=
  if_neg (by simp only [lenOperand]; omega)

theorem checkPad_bad {len : BitVec 5} (h : 15 < len.toNat) (snap : Snapshot) :
    checkPad len snap = some .invalidBlockLength := if_pos h

theorem checkRoundIndex_ok {rnd : BitVec 4} (h : rnd.toNat ≤ 10) (snap : Snapshot) :
    checkRoundIndex rnd snap = if snap.ksValid then none else some .scheduleNotValid :=
  if_pos (by simpa [roundIndexOk] using h)

/-- A completion in its own words: the commit's writes, the command ended, DONE set (40_command_issue.md R103). -/
theorem complete_eq (p : Pending) (s : State) :
    complete p s = { applyCommit p.commit s with
      pending := none, busy := false, irqStatus := ⟨true, s.irqStatus.err⟩ } := by
  obtain ⟨st, d, rk, ks, g, h⟩ := applyCommit_frame p.commit s
  simp only [complete, h]
  rfl

end Sys2Proof.Machine
end

