-- ==== Sys2Proof/Laws/Functions.lean ====
section
/-! SUPPORT. The small lemmas of the arithmetic definitions: the multiplier as an XOR of selected multiples
(41_galois_field.md R120), xtime over XOR (R121), the words of the key schedule as they are appended
(42_key_schedule.md R142), and add_round_key by columns (43_round_transform.md R163). -/

namespace Sys2Proof.Machine

/-- `a` where bit `i` of `b` is 1, else 0. -/
def selected (b : Byte) (i : Nat) (a : Byte) : Byte := if b.getLsbD i then a else 0x00#8

theorem gmulTurn_eq (b p a : Byte) (i : Nat) : gmulTurn b (p, a) i = (p ^^^ selected b i a, xtime a) := by
  simp only [gmulTurn, selected]
  split <;> simp

/-- The product is the XOR of the multiples `x^i * a` that the bits of `b` select. -/
theorem gmul_eq_selected (a b : Byte) :
    gmul a b = selected b 0 a ^^^ selected b 1 (xtime a) ^^^ selected b 2 (xtime (xtime a)) ^^^
      selected b 3 (xtime (xtime (xtime a))) ^^^ selected b 4 (xtime (xtime (xtime (xtime a)))) ^^^
      selected b 5 (xtime (xtime (xtime (xtime (xtime a))))) ^^^
      selected b 6 (xtime (xtime (xtime (xtime (xtime (xtime a)))))) ^^^
      selected b 7 (xtime (xtime (xtime (xtime (xtime (xtime (xtime a))))))) := by
  simp only [gmul, List.foldl, gmulTurn_eq, BitVec.zero_xor]

theorem xtime_eq_selected : ∀ a : Byte, xtime a = (a <<< 1) ^^^ selected a 7 0x1B#8 := by decide

theorem xtime_xor (a b : Byte) : xtime (a ^^^ b) = xtime a ^^^ xtime b := by
  simp only [xtime_eq_selected, selected, BitVec.getLsbD_xor]
  ext i hi
  cases a.getLsbD 7 <;> cases b.getLsbD 7 <;> simp <;> grind

theorem selected_xor_value (b : Byte) (i : Nat) (x y : Byte) :
    selected b i (x ^^^ y) = selected b i x ^^^ selected b i y := by
  simp only [selected]
  split <;> simp

theorem selected_xor_bits (b c : Byte) (i : Nat) (x : Byte) :
    selected (b ^^^ c) i x = selected b i x ^^^ selected c i x := by
  simp only [selected, BitVec.getLsbD_xor]
  cases b.getLsbD i <;> cases c.getLsbD i <;> simp

@[simp] theorem length_scheduleWords (k : Block) (n : Nat) : (scheduleWords k n).length = 4 + n := by
  induction n with
  | zero => rfl
  | succ n ih => simp [scheduleWords, ih]; omega

/-- A schedule word, once appended, stays. -/
theorem getD_scheduleWords_of_le (k : Block) {n m i : Nat} (h : n ≤ m) (hi : i < 4 + n) :
    (scheduleWords k m).getD i 0#32 = (scheduleWords k n).getD i 0#32 := by
  induction m, h using Nat.le_induction with
  | base => rfl
  | succ m hm ih =>
    have := length_scheduleWords k m
    rw [← ih]
    simp only [scheduleWords, List.getD]
    rw [List.getElem?_append_left (by omega)]

/-- The word appended last. -/
theorem getD_scheduleWords_succ (k : Block) (n : Nat) :
    (scheduleWords k (n + 1)).getD (4 + n) 0#32 = nextScheduleWord (scheduleWords k n) := by
  simp [scheduleWords, List.getD]

theorem rkWord_expandKey (k : Block) {i : Nat} (hi : i ≤ 43) :
    rkWord (expandKey k) i = (scheduleWords k 40).getD i 0#32 := by
  simp only [rkWord, expandKey, List.getD]
  rw [List.getElem?_eq_getElem (by simp; omega), Vector.getElem_toList, Vector.getElem_ofFn,
    Option.getD_some]

@[simp] theorem addRoundKey_get (s : Block) (rk : Vector Word 44) (r : Nat) (c : Fin 4) :
    (addRoundKey s rk r).get c = s.get c ^^^ (roundKey rk r).get c := by simp [addRoundKey]

/-- Bytes of a column-wise XOR. -/
theorem byte_xor (s t : Block) (r c : Fin 4) :
    (Block.ofFn fun c => s.get c ^^^ t.get c).byte r c = s.byte r c ^^^ t.byte r c := by
  simp only [Block.byte, Block.get_ofFn, byteOf]
  ext i hi
  simp

end Sys2Proof.Machine
end

