-- ==== Sys2Proof/Laws/PerInstr.lean ====
section
/-! SUPPORT. One lemma per command for the family EncodedFields (30_encoding.md R81 to R83): the word of a command holds
its opcode, its RND and LEN operands and zeros in every reserved field. -/

namespace Sys2Proof.Laws.EncodedFields

/-- Every field of the word of `i` is what the tables of 30_encoding.md give it. -/
def Statement (i : Instr) : Prop :=
  opField (encode i) = i.opcode ∧ rsv0Field (encode i) = 0#3 ∧ rndField (encode i) = i.rndOf ∧
    rsv1Field (encode i) = 0#4 ∧ lenField (encode i) = i.lenOf ∧ rsv2Field (encode i) = 0#11

theorem fields_commandWord (len : BitVec 5) (rnd : BitVec 4) (op : BitVec 5) :
    opField (commandWord len rnd op) = op ∧ rsv0Field (commandWord len rnd op) = 0#3 ∧
      rndField (commandWord len rnd op) = rnd ∧ rsv1Field (commandWord len rnd op) = 0#4 ∧
      lenField (commandWord len rnd op) = len ∧ rsv2Field (commandWord len rnd op) = 0#11 := by
  simp only [commandWord, opField, rsv0Field, rndField, rsv1Field, lenField, rsv2Field]
  refine ⟨?_, ?_, ?_, ?_, ?_, ?_⟩ <;> ext i hi <;> simp <;> grind

theorem nop : Statement .nop := fields_commandWord _ _ _
theorem expandKey (len : BitVec 5) : Statement (.expandKey len) := fields_commandWord _ _ _
theorem encryptBlock (len : BitVec 5) : Statement (.encryptBlock len) := fields_commandWord _ _ _
theorem loadState (len : BitVec 5) : Statement (.loadState len) := fields_commandWord _ _ _
theorem storeState : Statement .storeState := fields_commandWord _ _ _
theorem subBytes : Statement .subBytes := fields_commandWord _ _ _
theorem shiftRows : Statement .shiftRows := fields_commandWord _ _ _
theorem mixColumns : Statement .mixColumns := fields_commandWord _ _ _
theorem addRoundKey (rnd : BitVec 4) : Statement (.addRoundKey rnd) := fields_commandWord _ _ _
theorem round (rnd : BitVec 4) : Statement (.round rnd) := fields_commandWord _ _ _
theorem gfMul : Statement .gfMul := fields_commandWord _ _ _
theorem pad (len : BitVec 5) : Statement (.pad len) := fields_commandWord _ _ _

end Sys2Proof.Laws.EncodedFields
end

