-- ==== Sys2Proof/Laws/Platform.lean ====
section
/-! SUPPORT. What a step of one core and a transaction do to a platform, core by core, and when a core claims an
address. -/

namespace Sys2Proof.Machine

/-- A core claims exactly the 4 KiB from its BASE. -/
theorem claims_iff (x : Instance) (addr : Nat) : x.claims addr = true ↔ x.base ≤ addr ∧ addr < x.base + 4096 := by
  simp [Instance.claims]

/-- A core claims BASE + offset, for every offset. -/
theorem claims_base_add (x : Instance) (offset : BitVec 12) : x.claims (x.base + offset.toNat) = true := by
  rw [claims_iff]; omega

/-- A transaction at BASE + offset is received at that offset. -/
theorem receive_base_add (x : Instance) (offset : BitVec 12) (t : BitVec 12 → Transaction) :
    x.receive (x.base + offset.toNat) t =
      ⟨x.base, { x.core with events := x.core.events ++ [.bus (t offset)] }⟩ := by
  simp [Instance.receive]

/-- Everything a transaction does to a platform. -/
theorem getElem?_place (p : Platform) (addr : Nat) (t : BitVec 12 → Transaction) (k : Nat) :
    (p.place addr t)[k]? = p[k]?.map fun x => if x.claims addr then x.receive addr t else x := by
  simp [Platform.place]

/-- What a well-formed platform's bases are. -/
theorem wf_iff (p : Platform) :
    p.wf = true ↔ (∀ x ∈ p, x.base % 4096 = 0) ∧ (p.map fun x => x.base).Nodup := by
  simp [Platform.wf]

/-- A core of the platform that steps. -/
theorem stepInstance_next {p : Platform} {k : Nat} {x : Instance} {s : State} (hx : p[k]? = some x)
    (h : step x.core = .next s) : p.stepInstance k = .next (p.set k ⟨x.base, s⟩) := by
  simp [Platform.stepInstance, hx, h]

end Sys2Proof.Machine
end

