-- ==== Sys2Proof/Laws/Steps.lean ====
section
/-! SUPPORT. Everything one step can do, said once, with its guards, and how runs of `Sys2Proof.core` unfold. Proofs about
every step take cases on `StepCase`. -/

namespace Sys2Proof.Machine

/-- The successors of `s`, one constructor per way to step. -/
inductive StepCase (s : State) : State → Prop where
  | noEvent (he : s.events = []) : StepCase s (internalEdge s)
  | completion (es : List Event) (he : s.events = .completion :: es) :
    StepCase s (internalEdge { s with events := es })
  | rstLow (es : List Event) (he : s.events = .rstLow :: es) : StepCase s (hardwareReset { s with events := es })
  | rstHigh (es : List Event) (he : s.events = .rstHigh :: es) : StepCase s (releaseReset { s with events := es })
  /-- A transaction that only answers: a read, an illegal access, or a write that is ignored. -/
  | answered (x : Transaction) (es : List Event) (he : s.events = .bus x :: es) (hr : s.rstN = true) :
    StepCase s (s.served es (busResponse x s))
  | overrun (a : BitVec 12) (v : Word) (es : List Event) (he : s.events = .bus (.write a v 0b1111#4) :: es)
    (ha : regAt a = some .cmd) (hr : s.rstN = true) (hb : s.busy = true) :
    StepCase s (raiseCmdError .commandOverrun (opField v) (s.served es (.writeDone false)))
  | failed (a : BitVec 12) (v : Word) (es : List Event) (he : s.events = .bus (.write a v 0b1111#4) :: es)
    (ha : regAt a = some .cmd) (hr : s.rstN = true) (hb : s.busy = false) (e : ErrorCode)
    (hc : e ∈ [.invalidKeyLength, .invalidBlockLength, .illegalCommand, .scheduleNotValid]) (op : BitVec 5) :
    StepCase s (failAtOnce e op (s.served es (.writeDone false)))
  | accepted (a : BitVec 12) (v : Word) (es : List Event) (he : s.events = .bus (.write a v 0b1111#4) :: es)
    (ha : regAt a = some .cmd) (hr : s.rstN = true) (hb : s.busy = false) (i : Instr) (hd : decode v = .ok i)
    (hc : checkOf i s.snapshot = none) :
    StepCase s (accept i.opcode (effectOf i s.snapshot) (acceptSideEffect i (s.served es (.writeDone false))))
  | softReset (a : BitVec 12) (v : Word) (es : List Event) (he : s.events = .bus (.write a v 0b1111#4) :: es)
    (ha : regAt a = some .ctrl) (hr : s.rstN = true) (hv : v.getLsbD 0 = true) :
    StepCase s (doReset { s.served es (.writeDone false) with ctrlSrst := true })
  | clearedErrors (a : BitVec 12) (v : Word) (es : List Event) (he : s.events = .bus (.write a v 0b1111#4) :: es)
    (ha : regAt a = some .status) (hr : s.rstN = true) (hv : v.getLsbD 2 = true) :
    StepCase s (clearErrors (s.served es (.writeDone false)))
  | irqEn (a : BitVec 12) (v : Word) (es : List Event) (he : s.events = .bus (.write a v 0b1111#4) :: es)
    (ha : regAt a = some .irqEn) (hr : s.rstN = true) :
    StepCase s { s.served es (.writeDone false) with irqEn := irqEnOf v }
  | irqStatus (a : BitVec 12) (v : Word) (es : List Event) (he : s.events = .bus (.write a v 0b1111#4) :: es)
    (ha : regAt a = some .irqStatus) (hr : s.rstN = true) :
    StepCase s { s.served es (.writeDone false) with irqStatus := irqStatusAfterW1C s.irqStatus v }
  | gfOps (a : BitVec 12) (v : Word) (es : List Event) (he : s.events = .bus (.write a v 0b1111#4) :: es)
    (ha : regAt a = some .gfOps) (hr : s.rstN = true) :
    StepCase s { s.served es (.writeDone false) with gfA := v.extractLsb' 0 8, gfB := v.extractLsb' 8 8 }
  | key (a : BitVec 12) (v : Word) (es : List Event) (he : s.events = .bus (.write a v 0b1111#4) :: es) (j : Fin 4)
    (ha : regAt a = some (.key j)) (hr : s.rstN = true) :
    StepCase s { s.served es (.writeDone false) with key := s.key.set j v }
  | din (a : BitVec 12) (v : Word) (es : List Event) (he : s.events = .bus (.write a v 0b1111#4) :: es) (j : Fin 4)
    (ha : regAt a = some (.din j)) (hr : s.rstN = true) :
    StepCase s { s.served es (.writeDone false) with din := s.din.set j v }

/-- The errors a check raises (60_exceptions.md R241); no check raises an overrun or 0x3. -/
theorem checkOf_codes {i : Instr} {snap : Snapshot} {e : ErrorCode} (h : checkOf i snap = some e) :
    e ∈ [.invalidKeyLength, .invalidBlockLength, .illegalCommand, .scheduleNotValid] := by
  cases i <;> simp only [checkOf, checkExpandKey, checkEncryptBlock, checkLoadState, checkRoundIndex, checkPad] at h <;>
    (repeat' split at h) <;> simp at h <;> subst h <;> decide

/-- A legal write that is answered without an error, by the register at its offset. -/
theorem step_write {s : State} {a : BitVec 12} {v : Word} {es : List Event} {r : Reg}
    (he : s.events = .bus (.write a v 0b1111#4) :: es) (ha : aligned a = true) (hr : s.rstN = true)
    (hreg : regAt a = some r) : step s = writeReg r v (s.served es (.writeDone false)) := by
  rw [step_bus he hr]
  simp [busEffect, busResponse, Transaction.legal, ha, writeOffset, hreg]

/-- Everything a step can do. -/
theorem step_cases {s t : State} (h : step s = .next t) : StepCase s t := by
  cases he : s.events with
  | nil => rw [step_nil he] at h; cases h; exact .noEvent he
  | cons e es =>
    cases e with
    | completion => rw [step_completion he] at h; cases h; exact .completion es he
    | rstLow => rw [step_rstLow he] at h; cases h; exact .rstLow es he
    | rstHigh => rw [step_rstHigh he] at h; cases h; exact .rstHigh es he
    | bus x =>
      cases hr : s.rstN with
      | false => rw [step_bus_low he hr] at h; cases h
      | true =>
        have only : step s = .next (s.served es (busResponse x s)) → StepCase s t := fun h' => by
          rw [h'] at h; cases h; exact .answered x es he hr
        cases x with
        | read a => exact only (step_read he hr)
        | write a v strb =>
          cases hl : (Transaction.write a v strb).legal with
          | false => exact only (by rw [step_bus he hr]; simp [busEffect, hl])
          | true =>
            have hl' := hl
            simp only [Transaction.legal, Bool.and_eq_true, decide_eq_true_eq] at hl'
            obtain ⟨ha, rfl⟩ := hl'
            have resp : busResponse (.write a v 0b1111#4) s = .writeDone false := by simp [busResponse, hl]
            cases hreg : regAt a with
            | none => exact only (by rw [step_bus he hr]; simp [busEffect, hl, writeOffset, hreg])
            | some r =>
              have hs := step_write he ha hr hreg
              rw [resp] at only
              cases r with
              | id => exact only hs
              | errcode => exact only hs
              | gfRes => exact only hs
              | dout _ => exact only hs
              | state _ => exact only hs
              | rk _ => exact only hs
              | ctrl =>
                cases hv : v.getLsbD 0 with
                | false => exact only (by rw [hs]; simp only [writeReg, ctrlWrite, hv, Bool.false_eq_true, if_false])
                | true =>
                  rw [hs] at h; simp only [writeReg, ctrlWrite, hv, if_true] at h
                  cases h; exact .softReset a v es he hreg hr hv
              | status =>
                cases hv : v.getLsbD 2 with
                | false => exact only (by rw [hs]; simp only [writeReg, statusWrite, hv, Bool.false_eq_true, if_false])
                | true =>
                  rw [hs] at h; simp only [writeReg, statusWrite, hv, if_true] at h
                  cases h; exact .clearedErrors a v es he hreg hr hv
              | irqEn => rw [hs] at h; cases h; exact .irqEn a v es he hreg hr
              | irqStatus => rw [hs] at h; cases h; exact .irqStatus a v es he hreg hr
              | gfOps => rw [hs] at h; cases h; exact .gfOps a v es he hreg hr
              | key j => rw [hs] at h; cases h; exact .key a v es he j hreg hr
              | din j => rw [hs] at h; cases h; exact .din a v es he j hreg hr
              | cmd =>
                rw [hs] at h
                simp only [writeReg, cmdWrite, served_busy] at h
                cases hb : s.busy with
                | true => simp only [hb, if_true] at h; cases h; exact .overrun a v es he hreg hr hb
                | false =>
                  simp only [hb, Bool.false_eq_true, if_false] at h
                  cases hd : decode v with
                  | error e =>
                    simp only [hd] at h; cases h
                    exact .failed a v es he hreg hr hb .illegalCommand (by decide) _
                  | ok i =>
                    simp only [hd] at h
                    rcases exec_cases i (s.served es (.writeDone false)) with ⟨hx, _⟩ | ⟨_, e, hc, hx⟩ | ⟨_, hc, hx⟩
                    · simp [hb] at hx
                    · rw [hx] at h; cases h; exact .failed a v es he hreg hr hb e (checkOf_codes hc) _
                    · rw [hx] at h; cases h; exact .accepted a v es he hreg hr hb i hd hc

/-- The events to come play no part in a commit. -/
theorem applyCommit_events (ws : List RegWrite) (s : State) (es : List Event) :
    applyCommit ws { s with events := es } = { applyCommit ws s with events := es } := by
  induction ws generalizing s with
  | nil => rfl
  | cons w ws ih =>
    rw [applyCommit_cons, applyCommit_cons, ← ih]
    cases w <;> rfl

/-- A run of one more step. -/
theorem core_run_succ (n : Nat) (s : State) :
    Sys2Proof.core.run (n + 1) s =
      match step s with
      | .next s' => Sys2Proof.core.run n s'
      | .fault r => .fault r
      | .refused r => .refused r := by
  have h : Sys2Proof.core.step s = step s := rfl
  simp only [Host.Core.run, h]
  cases step s <;> rfl

/-- A run that goes on from where another ended. -/
theorem core_run_add (n m : Nat) (s t : State) (h : Sys2Proof.core.run n s = .next t) :
    Sys2Proof.core.run (n + m) s = Sys2Proof.core.run m t := by
  induction n generalizing s with
  | zero => cases h; simp
  | succ n ih =>
    rw [core_run_succ] at h
    rw [show n + 1 + m = n + m + 1 by omega, core_run_succ]
    cases hs : step s with
    | next s' => rw [hs] at h; exact ih s' h
    | fault r => rw [hs] at h; cases h
    | refused r => rw [hs] at h; cases h

end Sys2Proof.Machine
end

