-- ==== Sys2Proof/Tests/Slice0.lean ====
section
/-! SUPPORT. Tests against words and values written out from spec/ (the section named in each comment), the ill-formed
terms WellFormed refuses, and for every obligation with hypotheses a witness that meets them. -/

namespace Sys2Proof.Tests

open Sys2Proof.Machine

/-! ## Small states -/

/-- The key of 95_test_vectors.md V1. -/
def v1Key : Block := ⟨0x00010203#32, 0x04050607#32, 0x08090a0b#32, 0x0c0d0e0f#32⟩
/-- The plaintext of V1. -/
def v1Plain : Block := ⟨0x00112233#32, 0x44556677#32, 0x8899aabb#32, 0xccddeeff#32⟩
/-- The ciphertext of V1. -/
def v1Cipher : Block := ⟨0x69c4e0d8#32, 0x6a7b0430#32, 0xd8cdb780#32, 0x70b4c55a#32⟩

/-- Reset, with events placed. -/
def idle (es : List Event) : State := { State.reset with events := es }
/-- Idle, with the schedule of the V1 key. -/
def keyed (es : List Event) : State := { idle es with ksValid := true, rk := expandKey v1Key }
/-- Busy with a NOP. -/
def busyNop (es : List Event) : State := { idle es with busy := true, pending := some ⟨0x00#5, []⟩ }
/-- Busy with EXPAND_KEY of the V1 key. -/
def expanding (es : List Event) : State :=
  { idle es with busy := true, pending := some ⟨0x01#5, scheduleWrites (expandKey v1Key)⟩ }
/-- Busy with a command whose completion writes a GF product. -/
def multiplying (es : List Event) : State := { idle es with busy := true, pending := some ⟨0x0A#5, [.gfRes 0xc1#8]⟩ }
/-- Idle, with an error recorded. -/
def failedOnce (es : List Event) : State := { idle es with err := true, errCode := 0x5#4, errOp := 0x02#5 }

/-- The state a step ends in, if it ends in one. -/
def stepped (s : State) : Option State :=
  match step s with
  | .next t => some t
  | .fault _ => none
  | .refused _ => none

/-- `i` at its CMD write and then its completion. -/
def ran (i : Instr) (s : State) : Option State :=
  match exec i s with
  | .next t => stepped { t with events := [.completion] }
  | .fault _ => none
  | .refused _ => none

/-- ERRCODE, STATUS and IRQ_STATUS as V25 lists them, after a CMD write of `v`. -/
def errorView (s : State) (v : Word) : Option (Word × Word × Word) :=
  (stepped { s with events := [wr .cmd v] }).map fun t => (readReg t .errcode, readReg t .status, readReg t .irqStatus)

/-! ## WellFormed (30_encoding.md R83) -/

theorem smoke_addRoundKey_eleven_refused : ¬ WellFormed (.addRoundKey 11#4) := by decide
theorem smoke_round_fifteen_refused : ¬ WellFormed (.round 15#4) := by decide
theorem smoke_round_ten_accepted : WellFormed (.round 10#4) := by decide
theorem smoke_any_len_accepted : WellFormed (.expandKey 31#5) ∧ WellFormed (.pad 16#5) := by decide

/-! ## Decoding: words written bit by bit from 30_encoding.md R81 to R83 (RSV2 LEN RSV1 RND RSV0 OP) -/

theorem test_decode_nop : decode 0b00000000000000000000000000000000#32 = .ok .nop := by decide
theorem test_decode_expandKey : decode 0b00000000000100000000000000000001#32 = .ok (.expandKey 16#5) := by decide
theorem test_decode_encryptBlock : decode 0b00000000000100000000000000000010#32 = .ok (.encryptBlock 16#5) := by decide
theorem test_decode_loadState : decode 0b00000000000100000000000000000011#32 = .ok (.loadState 16#5) := by decide
theorem test_decode_storeState : decode 0b00000000000000000000000000000100#32 = .ok .storeState := by decide
theorem test_decode_subBytes : decode 0b00000000000000000000000000000101#32 = .ok .subBytes := by decide
theorem test_decode_shiftRows : decode 0b00000000000000000000000000000110#32 = .ok .shiftRows := by decide
theorem test_decode_mixColumns : decode 0b00000000000000000000000000000111#32 = .ok .mixColumns := by decide
theorem test_decode_addRoundKey : decode 0b00000000000000000000100100001000#32 = .ok (.addRoundKey 9#4) := by decide
theorem test_decode_round : decode 0b00000000000000000000101000001001#32 = .ok (.round 10#4) := by decide
theorem test_decode_gfMul : decode 0b00000000000000000000000000001010#32 = .ok .gfMul := by decide
theorem test_decode_pad : decode 0b00000000000001010000000000001011#32 = .ok (.pad 5#5) := by decide

/-- Illegal words of 30_encoding.md R94 and 95_test_vectors.md V12, V17, V25, each refused for its own reason. -/
theorem test_decode_refuses :
    decode 0x00000B09#32 = .error .rndOutOfRange ∧ decode 0x00000105#32 = .error .rndNotZero ∧
    decode 0x00000025#32 = .error .reservedBits ∧ decode 0x0000000C#32 = .error .reservedOpcode ∧
    decode 0x80000000#32 = .error .reservedBits ∧ decode 0x00001000#32 = .error .reservedBits ∧
    decode 0x00100004#32 = .error .lenNotZero ∧ decode 0x00100009#32 = .error .lenNotZero ∧
    decode 0x0000001F#32 = .error .reservedOpcode := by decide

/-- The assembler's words of 30_encoding.md R94, and an operand too wide for its field. -/
theorem test_assemble :
    assemble 0x0B#5 (some 16) = some 0x0010000B#32 ∧ assemble 0x09#5 (some 10) = some 0x00000A09#32 ∧
    assemble 0x09#5 (some 16) = none ∧ assemble 0x0B#5 (some 32) = none ∧ assemble 0x0A#5 (some 0) = none := by decide

/-- The host's table words: the instruction is read from the word and is the first to run after reset. -/
theorem test_fetch_word :
    decodeTableWord 32 0x00000A09 = some (.round 10#4) ∧ decodeTableWord 32 0x00000B09 = none ∧
    stepped (State.reset.withFetchWord 32 0x0000000A) =
      some (accept 0x0A#5 [.gfRes 0x00#8] { State.reset with response := some (.writeDone false) }) := by decide +kernel

/-! ## The commands, by the vectors of 95_test_vectors.md -/

/-- V25: NOP is accepted, completes, and sets DONE only. -/
theorem test_nop : ran .nop (idle []) =
    some { idle [] with irqStatus := ⟨true, false⟩ } := by decide +kernel

/-- V11, all-zero key: words 4 and 43. -/
theorem test_expand_key : (ran (.expandKey 16#5) (idle [])).map (fun t => (readReg t (.rk 4), readReg t (.rk 43))) =
    some (0x62636363#32, 0x6f8f188e#32) := by decide +kernel

/-- V11: LEN 15 is INVALID_KEY_LENGTH, with KS_VALID kept. -/
theorem test_expand_key_length : errorView (keyed []) 0x000F0001#32 = some (0x00000101#32, 0x00000006#32, 3#32) := by
  decide +kernel

/-- V1: the known answer, in DOUT and STATE. -/
theorem test_encrypt_block : (ran (.encryptBlock 16#5) { keyed [] with din := v1Plain }).map (fun t => (t.dout, t.state)) =
    some (v1Cipher, v1Cipher) := by decide +kernel

/-- V18: from reset, ENCRYPT_BLOCK 15 is a length error, by priority. -/
theorem test_encrypt_block_priority : errorView (idle []) 0x000F0002#32 = some (0x00000202#32, 4#32, 3#32) := by
  decide +kernel

/-- V12. -/
theorem test_load_state : (ran (.loadState 16#5) { idle [] with din := v1Plain }).map (fun t => (t.state, t.dout)) =
    some (v1Plain, Block.zero) := by decide +kernel
theorem test_load_state_length : errorView (idle []) 0x00000003#32 = some (0x00000302#32, 4#32, 3#32) := by decide +kernel

/-- V12. -/
theorem test_store_state : (ran .storeState { idle [] with state := v1Plain }).map (fun t => t.dout) = some v1Plain := by
  decide +kernel
theorem test_store_state_with_len : errorView (idle []) 0x00100004#32 = some (0x00000404#32, 4#32, 3#32) := by
  decide +kernel

/-- V13, last row. -/
theorem test_sub_bytes :
    (ran .subBytes { idle [] with state := ⟨0x00102030#32, 0x40506070#32, 0x8090a0b0#32, 0xc0d0e0f0#32⟩ }).map
      (fun t => t.state) = some ⟨0x63cab704#32, 0x0953d051#32, 0xcd60e0e7#32, 0xba70e18c#32⟩ := by decide +kernel

/-- V14, first row. -/
theorem test_shift_rows : (ran .shiftRows { idle [] with state := v1Key }).map (fun t => t.state) =
    some ⟨0x00050a0f#32, 0x04090e03#32, 0x080d0207#32, 0x0c01060b#32⟩ := by decide +kernel

/-- V15, last row, and V24 in one state of four columns. -/
theorem test_mix_columns :
    (ran .mixColumns { idle [] with state := ⟨0x6353e08c#32, 0x0960e104#32, 0xcd70b751#32, 0xbacad0e7#32⟩ }).map
      (fun t => t.state) = some ⟨0x5f726415#32, 0x57f5bc92#32, 0xf7be3b29#32, 0x1db9f91a#32⟩ := by decide +kernel
theorem test_mix_columns_published :
    (ran .mixColumns { idle [] with state := ⟨0xdb135345#32, 0xf20a225c#32, 0xd4d4d4d5#32, 0x2d26314c#32⟩ }).map
      (fun t => t.state) = some ⟨0x8e4da1bc#32, 0x9fdc589d#32, 0xd5d5d7d6#32, 0x4d7ebdf8#32⟩ := by decide +kernel

/-- V16: round key 10 into a zero state. -/
theorem test_add_round_key : (ran (.addRoundKey 10#4) (keyed [])).map (fun t => t.state) =
    some ⟨0x13111d7f#32, 0xe3944a17#32, 0xf307a78b#32, 0x4d2b30c5#32⟩ := by decide +kernel
theorem test_add_round_key_no_schedule : errorView (idle []) 0x00000008#32 = some (0x00000805#32, 4#32, 3#32) := by
  decide +kernel

/-- V17: a full round and the final round. -/
theorem test_round_full :
    (ran (.round 1#4) { keyed [] with state := ⟨0x00102030#32, 0x40506070#32, 0x8090a0b0#32, 0xc0d0e0f0#32⟩ }).map
      (fun t => t.state) = some ⟨0x89d810e8#32, 0x855ace68#32, 0x2d1843d8#32, 0xcb128fe4#32⟩ := by decide +kernel
theorem test_round_final :
    (ran (.round 10#4) { keyed [] with state := ⟨0xbd6e7c3d#32, 0xf2b5779e#32, 0x0b61216e#32, 0x8b10b689#32⟩ }).map
      (fun t => t.state) = some v1Cipher := by decide +kernel

/-- V10: rows of the product table. -/
theorem test_gf_mul : (ran .gfMul { idle [] with gfA := 0x57#8, gfB := 0x83#8 }).map (fun t => readReg t .gfRes) =
    some 0x000000C1#32 := by decide +kernel
theorem test_gmul_rows : gmul 0x57#8 0x10#8 = 0x07#8 ∧ gmul 0x80#8 0x03#8 = 0x9b#8 ∧ gmul 0xff#8 0xff#8 = 0x13#8 ∧
    gmul 0x03#8 0xf6#8 = 0x01#8 ∧ gmul 0xe5#8 0x4c#8 = 0xb5#8 ∧ gmul 0x0e#8 0x0b#8 = 0x62#8 := by decide +kernel

/-- V19: PAD 5, and PAD 16 refused. -/
theorem test_pad :
    (ran (.pad 5#5) { idle [] with din := ⟨0xa0a1a2a3#32, 0xa4a5a6a7#32, 0xa8a9aaab#32, 0xacadaeaf#32⟩ }).map
      (fun t => t.dout) = some ⟨0xa0a1a2a3#32, 0xa40b0b0b#32, 0x0b0b0b0b#32, 0x0b0b0b0b#32⟩ := by decide +kernel
theorem test_pad_sixteen : errorView (idle []) 0x0010000B#32 = some (0x00000B02#32, 4#32, 3#32) := by decide +kernel

/-- V4. -/
theorem test_pad_lengths : ([0, 15, 16, 17, 32].map fun n => (pad (List.replicate n 0x00#8)).length) = [16, 16, 32, 32, 48] := by
  decide +kernel

/-- V4: the number of ciphertext blocks of the host procedure. -/
theorem test_message_blocks : ([0, 15, 16, 17, 32].map fun n =>
    (encryptMessage (List.replicate n 0x00#8)).count (cmd (.encryptBlock 16#5))) = [1, 1, 2, 2, 3] := by decide +kernel

/-- V23. -/
theorem test_sbox : [0x00#8, 0x01#8, 0x10#8, 0x53#8, 0x7f#8, 0x80#8, 0x9a#8, 0xc9#8, 0xff#8].map sbox =
    [0x63#8, 0x7c#8, 0xca#8, 0xed#8, 0xd2#8, 0xcd#8, 0xb8#8, 0xdd#8, 0x16#8] := by decide +kernel

/-- V20. -/
theorem test_schedule_fips :
    (roundKey (expandKey ⟨0x2b7e1516#32, 0x28aed2a6#32, 0xabf71588#32, 0x09cf4f3c#32⟩) 10) =
      ⟨0xd014f9a8#32, 0xc9ee2589#32, 0xe13f0cc8#32, 0xb6630ca6#32⟩ := by decide +kernel

/-! ## Errors, port, interrupts, reset -/

/-- V25: decode and overrun rows. -/
theorem test_error_rows :
    errorView (idle []) 0xFFFFFFFF#32 = some (0x00001F04#32, 4#32, 3#32) ∧
    errorView (idle []) 0x00000B08#32 = some (0x00000804#32, 4#32, 3#32) ∧
    errorView (idle []) 0x00100002#32 = some (0x00000205#32, 4#32, 3#32) ∧
    errorView (expanding []) 0x00100002#32 = some (0x00000206#32, 5#32, 2#32) := by decide +kernel

/-- V25, the error sequence: the first error is kept and ERR_OVF set. -/
theorem test_first_error_kept : errorView (failedOnce []) 0x000F0001#32 = some (0x00000205#32, 0x0000000C#32, 3#32) := by
  decide +kernel

/-- V26: answers. -/
theorem test_bus_answers :
    (stepped (idle [.bus (.read 0x002#12)])).map (fun t => t.response) = some (some (.readDone 0#32 true)) ∧
    (stepped (idle [.bus (.write 0x030#12 0x12345678#32 0b0011#4)])).map (fun t => (t.response, t.key)) =
      some (some (.writeDone true), Block.zero) ∧
    (stepped (idle [.bus (.read 0xFFC#12)])).map (fun t => t.response) = some (some (.readDone 0#32 false)) ∧
    (stepped (idle [.bus (.read 0x000#12)])).map (fun t => t.response) =
      some (some (.readDone 0x41455331#32 false)) := by decide +kernel

/-- V26: GF_OPS and IRQ_EN store their bits only. -/
theorem test_reserved_bits_not_stored :
    (stepped (idle [.bus (.write 0x01C#12 0xFFFFFFFF#32 0b1111#4)])).map (fun t => readReg t .gfOps) =
      some 0x0000FFFF#32 ∧
    (stepped (idle [.bus (.write 0x014#12 0xFFFFFFFF#32 0b1111#4)])).map (fun t => readReg t .irqEn) =
      some 0x00000003#32 := by decide +kernel

/-- V27. -/
theorem test_irq_line :
    State.irq { idle [] with irqEn := ⟨true, false⟩, irqStatus := ⟨false, true⟩ } = false ∧
    State.irq { idle [] with irqEn := ⟨false, true⟩, irqStatus := ⟨false, true⟩ } = true ∧
    (stepped { idle [wr .irqStatus 2#32] with irqEn := ⟨true, false⟩, irqStatus := ⟨true, false⟩ }).map
      (fun t => t.irq) = some true := by decide +kernel

/-- P7: a soft reset aborts the key expansion and clears the registers. -/
theorem test_soft_reset :
    (stepped { expanding [srst] with key := v1Key }).map (fun t => (t.pending, readReg t .status, readReg t (.key 0))) =
      some (none, 0#32, 0#32) := by decide +kernel

/-- U12 (93_implementation_defined.md): a bus access with `rst_n` low is the one stop. -/
theorem test_access_during_reset : step { idle [rd .id] with rstN := false } = .fault .accessDuringReset := rfl

/-! ## Invariant witnesses -/

theorem inv_idle (es : List Event) : Inv (idle es) where
  busyIffPending := by simp [idle, State.reset]
  srstReadsZero := rfl
  noErrorNoRecord := fun _ => ⟨rfl, rfl, rfl⟩
  errorCodeRaised := by simp [idle, State.reset]
  commitLegal := by simp [idle, State.reset]
  expandingNotValid := by simp [idle, State.reset]
  scheduleOfAKey := by simp [idle, State.reset]
  resetWhileLow := by simp [idle, State.reset]

theorem inv_keyed (es : List Event) : Inv (keyed es) :=
  { inv_idle es with
    scheduleOfAKey := fun _ => ⟨v1Key, rfl⟩
    resetWhileLow := fun h => nomatch h
    expandingNotValid := fun _ h => nomatch h }

theorem inv_busyNop (es : List Event) : Inv (busyNop es) :=
  { inv_idle es with
    busyIffPending := by simp [busyNop]
    commitLegal := fun p hp => by cases hp; rfl
    expandingNotValid := fun p hp ho => by cases hp; cases ho
    resetWhileLow := fun h => nomatch h }

theorem inv_expanding (es : List Event) : Inv (expanding es) :=
  { inv_idle es with
    busyIffPending := by simp [expanding]
    commitLegal := fun p hp => by cases hp; exact ⟨v1Key, rfl⟩
    expandingNotValid := fun p hp ho => rfl
    resetWhileLow := fun h => nomatch h }

theorem inv_multiplying (es : List Event) : Inv (multiplying es) :=
  { inv_idle es with
    busyIffPending := by simp [multiplying]
    commitLegal := fun p hp => by cases hp; exact ⟨0xc1#8, rfl⟩
    expandingNotValid := fun p hp ho => by cases hp; cases ho
    resetWhileLow := fun h => nomatch h }

/-! ## Witnesses: for each obligation with hypotheses, a state and operands that meet them, clause by clause -/

theorem witness_DecodeOfEncodeIsTheCommand : WellFormed (.round 10#4) ∧ WellFormed (.addRoundKey 0#4) ∧
    WellFormed (.expandKey 31#5) ∧ WellFormed .nop := by decide

theorem witness_EncodeOfDecodeIsTheWord : decode 0x00000A08#32 = .ok (.addRoundKey 10#4) := by decide

/-- One word for each way a word is illegal, boundary fields among them. -/
theorem witness_ReservedEncodingsRaiseIllegalCommand :
    (idle [wr .cmd 0x00000020#32]).rstN = true ∧ (idle [wr .cmd 0x00000020#32]).busy = false ∧
    (idle [wr .cmd 0x00000020#32]).events = wr .cmd 0x00000020#32 :: [] ∧
    IllegalWord 0x00000020#32 ∧ IllegalWord 0x00001000#32 ∧ IllegalWord 0x80000000#32 ∧ IllegalWord 0x0000000C#32 ∧
    IllegalWord 0x00000100#32 ∧ IllegalWord 0x00000B08#32 ∧ IllegalWord 0x00100009#32 ∧ ¬ IllegalWord 0x00000A09#32 := by
  refine ⟨rfl, rfl, rfl, ?_⟩
  unfold IllegalWord
  refine ⟨?_, ?_, ?_, ?_, ?_, ?_, ?_, ?_⟩ <;> decide

theorem witness_AssemblerEmitsTableWordsAndRejectsWideOperands :
    0x0B#5 ∈ [0x01#5, 0x02#5, 0x03#5, 0x0B#5] ∧ 31 < 32 ∧ 32 ≤ 32 ∧ 0x09#5 ∈ [0x08#5, 0x09#5] ∧ 15 < 16 ∧ 16 ≤ 16 ∧
    0x0A#5 ∈ [0x00#5, 0x04#5, 0x05#5, 0x06#5, 0x07#5, 0x0A#5] := by decide

/-- Idle and busy. -/
theorem witness_CmdWriteRunsTheDecodedCommand :
    (idle [wr .cmd 0x0000000A#32]).rstN = true ∧
    (idle [wr .cmd 0x0000000A#32]).events = wr .cmd 0x0000000A#32 :: [] ∧
    (busyNop [wr .cmd 0x0000000A#32]).events = wr .cmd 0x0000000A#32 :: [] ∧
    decode 0x0000000A#32 = .ok .gfMul := ⟨rfl, rfl, rfl, rfl⟩

theorem witness_FirstCommandErrorWins : (idle []).err = false ∧ (failedOnce []).err = true := ⟨rfl, rfl⟩

/-- One word for each clause of the priority order, at LEN 15, 17 and 16. -/
theorem witness_OneErrorPerCmdWriteByPriority :
    (idle [wr .cmd 0x00110001#32]).rstN = true ∧
    (idle [wr .cmd 0x00110001#32]).events = wr .cmd 0x00110001#32 :: [] ∧
    (busyNop []).busy = true ∧ (idle []).busy = false ∧ (idle []).ksValid = false ∧ (keyed []).ksValid = true ∧
    IllegalWord 0x00000B08#32 ∧
    (¬ IllegalWord 0x00110001#32 ∧ KeyLengthBad 0x00110001#32) ∧
    (¬ IllegalWord 0x000F0002#32 ∧ BlockLengthBad 0x000F0002#32) ∧
    (¬ IllegalWord 0x0010000B#32 ∧ BlockLengthBad 0x0010000B#32) ∧
    (¬ IllegalWord 0x00000A09#32 ∧ ¬ KeyLengthBad 0x00000A09#32 ∧ ¬ BlockLengthBad 0x00000A09#32 ∧
      NeedsSchedule 0x00000A09#32) ∧
    (¬ IllegalWord 0x000F000B#32 ∧ ¬ KeyLengthBad 0x000F000B#32 ∧ ¬ BlockLengthBad 0x000F000B#32 ∧
      ¬ NeedsSchedule 0x000F000B#32) := by
  refine ⟨rfl, rfl, rfl, rfl, rfl, rfl, ?_⟩
  unfold IllegalWord KeyLengthBad BlockLengthBad NeedsSchedule
  refine ⟨?_, ⟨?_, ?_⟩, ⟨?_, ?_⟩, ⟨?_, ?_⟩, ⟨?_, ?_, ?_, ?_⟩, ⟨?_, ?_, ?_, ?_⟩⟩ <;> decide

/-- Rejected because busy, rejected by its check, and a completion. -/
theorem witness_RejectedCommandsChangeOnlyTheErrorRecord :
    (∃ t, step (busyNop [wr .cmd 0x00000000#32]) = .next t ∧ (busyNop [wr .cmd 0x00000000#32]).busy = true) ∧
    (∃ t, step (idle [wr .cmd 0x00100002#32]) = .next t ∧ t.busy = false) ∧
    (∃ t, (busyNop [.completion]).pending = some ⟨0x00#5, []⟩ ∧ step (busyNop [.completion]) = .next t) :=
  ⟨⟨_, rfl, rfl⟩, ⟨_, rfl, rfl⟩, ⟨_, rfl, rfl⟩⟩

theorem witness_CompletionAppliesTheCommit :
    (expanding [.completion]).rstN = true ∧
    (expanding [.completion]).pending = some ⟨0x01#5, scheduleWrites (expandKey v1Key)⟩ ∧
    (expanding [.completion]).events = .completion :: [] ∧ (expanding []).rstN = true ∧
    (expanding []).pending = some ⟨0x01#5, scheduleWrites (expandKey v1Key)⟩ ∧ (expanding []).events = [] :=
  ⟨rfl, rfl, rfl, rfl, rfl, rfl⟩

/-- A commit that writes each kind of register, the last element of each array among them, and none of another. -/
theorem witness_CommitWritesEachNamedRegisterOnly :
    (([.state 3 1#32, .dout 3 2#32, .rk 43 3#32, .ksValid true, .gfRes 4#8] : List RegWrite).map writeTarget).Nodup ∧
    Reg.state 0 ∉ ([.dout 3 2#32] : List RegWrite).map writeTarget ∧
    Reg.dout 0 ∉ ([.state 3 1#32] : List RegWrite).map writeTarget ∧
    Reg.rk 0 ∉ ([.rk 43 3#32] : List RegWrite).map writeTarget ∧
    Reg.status ∉ ([.gfRes 4#8] : List RegWrite).map writeTarget ∧
    Reg.gfRes ∉ ([.ksValid true] : List RegWrite).map writeTarget := by decide

/-- A write of KEY0 and a CTRL write with bit 0 = 0, both while busy. -/
theorem witness_HostTransactionsLeaveThePendingCommandAlone :
    (expanding []).rstN = true ∧ (expanding []).busy = true ∧
    (∀ v : Word, v.getLsbD 0 = true → Transaction.write 0x030#12 0#32 0b1111#4 ≠ .write 0x004#12 v 0b1111#4) ∧
    (∀ v : Word, v.getLsbD 0 = true → Transaction.write 0x004#12 2#32 0b1111#4 ≠ .write 0x004#12 v 0b1111#4) ∧
    (∃ t, step (expanding [wr (.key 0) 0#32]) = .next t) ∧ (∃ t, step (expanding [wr .ctrl 2#32]) = .next t) := by
  refine ⟨rfl, rfl, fun v _ h => ?_, fun v hv h => ?_, ⟨_, rfl⟩, ⟨_, rfl⟩⟩
  · simp at h
  · simp only [Transaction.write.injEq] at h
    rw [← h.2.1] at hv
    simp at hv

theorem witness_BusyFallsWithinTheEventsToCome : Inv (expanding [rd .status, .completion]) ∧ Inv (busyNop []) :=
  ⟨inv_expanding _, inv_busyNop _⟩

/-- A host that waits out a reset. -/
theorem witness_OnlyAnAccessDuringResetStopsTheCore :
    noAccessInReset (expanding [rd .status, .rstLow, .completion, .rstHigh, rd .id]).rstN
      (expanding [rd .status, .rstLow, .completion, .rstHigh, rd .id]).events = true := rfl

theorem witness_RunPseudoInstructionEndsWithBusyClear :
    (keyed (run (.round 10#4) 2 ++ [])).rstN = true ∧ (keyed (run (.round 10#4) 2 ++ [])).busy = false ∧
    (keyed (run (.round 10#4) 2 ++ [])).pending = none ∧ WellFormed (.round 10#4) ∧
    checkOf (.round 10#4) (keyed (run (.round 10#4) 2 ++ [])).snapshot = none ∧
    (keyed (run (.round 10#4) 2 ++ [])).events = run (.round 10#4) 2 ++ [] := ⟨rfl, rfl, rfl, rfl, rfl, rfl⟩

/-- The hypotheses of `OtherWordsAreIllegal` on the state; those on the word stand in each command's witness. -/
theorem witness_OtherWordsAreIllegal :
    (idle [wr .cmd 0x00000100#32]).rstN = true ∧ (idle [wr .cmd 0x00000100#32]).busy = false ∧
    (idle [wr .cmd 0x00000100#32]).events = wr .cmd 0x00000100#32 :: [] := ⟨rfl, rfl, rfl⟩

/-- The hypotheses of `CompletesAs`, after the host has written KEY0. -/
theorem witness_CompletesAs :
    { multiplying [.completion] with key := v1Key }.rstN = true ∧
    { multiplying [.completion] with key := v1Key }.pending = some ⟨0x0A#5, [.gfRes 0xc1#8]⟩ ∧
    { multiplying [.completion] with key := v1Key }.events = .completion :: [] := ⟨rfl, rfl, rfl⟩

theorem witness_NopRunsAndChangesNothing : (idle []).busy = false ∧ (busyNop []).busy = true ∧
    0x00000100#32 ≠ 0x00000000#32 ∧ (0x00000100#32).extractLsb' 0 5 = 0x00#5 := by
  decide

theorem witness_ExpandKeyStoresTheScheduleOfKey :
    (idle []).busy = false ∧ (busyNop []).busy = true ∧ 15#5 ≠ 16#5 ∧ 17#5 ≠ 16#5 ∧
    (∀ len : BitVec 5, 0x00100101#32 ≠ len.setWidth 32 <<< 16 ||| 0x01#32) ∧
    (0x00100101#32).extractLsb' 0 5 = 0x01#5 := by
  decide

theorem witness_EncryptBlockStoresTheCiphertext :
    (idle []).busy = false ∧ (busyNop []).busy = true ∧ (keyed []).busy = false ∧ (keyed []).ksValid = true ∧
    (idle []).ksValid = false ∧ 15#5 ≠ 16#5 ∧ 17#5 ≠ 16#5 ∧
    (∀ len : BitVec 5, 0x00100022#32 ≠ len.setWidth 32 <<< 16 ||| 0x02#32) ∧
    (0x00100022#32).extractLsb' 0 5 = 0x02#5 := by
  decide

theorem witness_LoadStateCopiesDinToState :
    (idle []).busy = false ∧ (busyNop []).busy = true ∧ 0#5 ≠ 16#5 ∧ 17#5 ≠ 16#5 ∧
    (∀ len : BitVec 5, 0x00101003#32 ≠ len.setWidth 32 <<< 16 ||| 0x03#32) ∧
    (0x00101003#32).extractLsb' 0 5 = 0x03#5 := by
  decide

theorem witness_StoreStateCopiesStateToDout : (idle []).busy = false ∧ (busyNop []).busy = true ∧
    0x00100004#32 ≠ 0x00000004#32 ∧ (0x00100004#32).extractLsb' 0 5 = 0x04#5 := by
  decide

theorem witness_SubBytesCommandSubstitutesState : (idle []).busy = false ∧ (busyNop []).busy = true ∧
    0x00000105#32 ≠ 0x00000005#32 ∧ (0x00000105#32).extractLsb' 0 5 = 0x05#5 := by
  decide

theorem witness_ShiftRowsCommandRotatesTheRows : (idle []).busy = false ∧ (busyNop []).busy = true ∧
    0x00000026#32 ≠ 0x00000006#32 ∧ (0x00000026#32).extractLsb' 0 5 = 0x06#5 := by
  decide

theorem witness_MixColumnsCommandMixesTheColumns : (idle []).busy = false ∧ (busyNop []).busy = true ∧
    0x00010007#32 ≠ 0x00000007#32 ∧ (0x00010007#32).extractLsb' 0 5 = 0x07#5 := by
  decide

theorem witness_AddRoundKeyCommandXorsTheRoundKey :
    (0#4).toNat ≤ 10 ∧ (10#4).toNat ≤ 10 ∧ (keyed []).busy = false ∧ (keyed []).ksValid = true ∧
    (idle []).busy = false ∧ (idle []).ksValid = false ∧ (busyNop []).busy = true ∧
    (∀ r : BitVec 4, r.toNat ≤ 10 → 0x00000B08#32 ≠ r.setWidth 32 <<< 8 ||| 0x08#32) ∧
    (0x00000B08#32).extractLsb' 0 5 = 0x08#5 := by
  decide

theorem witness_RoundCommandRunsOneRound :
    (0#4).toNat ≤ 10 ∧ (10#4).toNat ≤ 10 ∧ (keyed []).busy = false ∧ (keyed []).ksValid = true ∧
    (idle []).busy = false ∧ (idle []).ksValid = false ∧ (busyNop []).busy = true ∧
    (∀ r : BitVec 4, r.toNat ≤ 10 → 0x00100009#32 ≠ r.setWidth 32 <<< 8 ||| 0x09#32) ∧
    (0x00100009#32).extractLsb' 0 5 = 0x09#5 := by
  decide

theorem witness_GfMulStoresTheProduct : (idle []).busy = false ∧ (busyNop []).busy = true ∧
    0x8000000A#32 ≠ 0x0000000A#32 ∧ (0x8000000A#32).extractLsb' 0 5 = 0x0A#5 := by
  decide

theorem witness_PadCommandPadsTheFinalChunk :
    (idle []).busy = false ∧ (15#5).toNat ≤ 15 ∧ 15 < (16#5).toNat ∧ (busyNop []).busy = true ∧
    (∀ len : BitVec 5, 0x0005010B#32 ≠ len.setWidth 32 <<< 16 ||| 0x0B#32) ∧
    (0x0005010B#32).extractLsb' 0 5 = 0x0B#5 := by
  decide

theorem witness_StepwiseEncryptionEqualsEncryptBlock :
    (keyed []).rstN = true ∧ (keyed []).busy = false ∧ (keyed []).pending = none ∧ (keyed []).ksValid = true :=
  ⟨rfl, rfl, rfl, rfl⟩

/-- Row 3 of column 3 comes from column 2; row 0 from its own column. -/
theorem witness_SubBytesAndShiftRowsActOnBytes :
    (2 : Fin 4).val = ((3 : Fin 4).val + (3 : Fin 4).val) % 4 ∧ (3 : Fin 4).val = ((3 : Fin 4).val + (0 : Fin 4).val) % 4 := by
  decide

theorem witness_AddRoundKeyXorsScheduleWords :
    10 ≤ 10 ∧ (43 : Fin 44).val = 4 * 10 + (3 : Fin 4).val ∧ (0 : Fin 44).val = 4 * 0 + (0 : Fin 4).val := by decide

theorem witness_CipherIsElevenRoundSteps : (1 ≤ 1 ∧ 1 ≤ 9) ∧ (1 ≤ 9 ∧ 9 ≤ 9) := by decide

theorem witness_KeyScheduleFollowsItsRecurrence : (4 ≤ 4 ∧ 4 ≤ 43) ∧ (4 ≤ 43 ∧ 43 ≤ 43) := by decide

theorem witness_DistinctKeysGiveDistinctSchedules :
    expandKey v1Key = expandKey v1Key ∧
    ∀ i : Nat, 4 ≤ i → i ≤ 7 → rkWord (expandKey v1Key) i = rkWord (expandKey v1Key) i := ⟨rfl, fun _ _ _ => rfl⟩

theorem witness_GmulIsPolynomialMultiplicationModuloTheAesPolynomial :
    ∃ poly : Byte → Polynomial (ZMod 2),
      ∀ a : Byte, poly a = ∑ i ∈ Finset.range 8, if a.getLsbD i then Polynomial.X ^ i else 0 := ⟨_, fun _ => rfl⟩

theorem witness_GmulFieldLaws : 0x53#8 ≠ 0x00#8 ∧ gmul 0x53#8 0xca#8 = 0x01#8 := by decide

theorem witness_SboxIsABijectionAndTheAffineMapOfTheInverse :
    gmul 0x53#8 0xca#8 = 0x01#8 ∧
    ∃ affine : Byte → Byte, ∀ (y : Byte) (i : Nat), i < 8 → (affine y).getLsbD i =
      (y.getLsbD i ^^ y.getLsbD ((i + 4) % 8) ^^ y.getLsbD ((i + 5) % 8) ^^ y.getLsbD ((i + 6) % 8) ^^
        y.getLsbD ((i + 7) % 8) ^^ (0x63#8).getLsbD i) := by
  refine ⟨by decide, fun y => y ^^^ y.rotateRight 4 ^^^ y.rotateRight 5 ^^^ y.rotateRight 6 ^^^ y.rotateRight 7 ^^^ 0x63#8, ?_⟩
  intro y i hi
  interval_cases i <;> simp

/-- Five bytes left over, and none. -/
theorem witness_PadBlockIsTheLastBlockOfPad :
    15 ≤ 15 ∧
    (∀ k : Fin 16, k.val < ((List.replicate 21 0xa5#8).length % 16) →
      some ((Block.pack fun _ => 0xa5#8).unpack k) =
        (List.replicate 21 0xa5#8)[(List.replicate 21 0xa5#8).length - (List.replicate 21 0xa5#8).length % 16 + k.val]?) ∧
    (∀ k : Fin 16, k.val < (([] : List Byte).length % 16) → some (Block.zero.unpack k) = ([] : List Byte)[0 + k.val]?) := by
  decide

theorem witness_PackAndUnpackAreInverse :
    (12 : Fin 16).val = 4 * (3 : Fin 4).val ∧ (13 : Fin 16).val = 4 * (3 : Fin 4).val + 1 ∧
    (14 : Fin 16).val = 4 * (3 : Fin 4).val + 2 ∧ (15 : Fin 16).val = 4 * (3 : Fin 4).val + 3 := by decide

theorem witness_RegisterMapHasNoAliases : regAt 0x1AC#12 = some (.rk 43) ∧ regAt 0x000#12 = some .id := by decide

theorem witness_IllegalAccessesOnlyAnswerAnError :
    (idle [.bus (.read 0x001#12)]).rstN = true ∧
    (idle [.bus (.read 0x001#12)]).events = .bus (.read 0x001#12) :: [] ∧ (0x001#12).toNat % 4 ≠ 0 ∧
    (0xFFF#12).toNat % 4 ≠ 0 ∧ 0b0111#4 ≠ 0b1111#4 ∧ 0b0000#4 ≠ 0b1111#4 := ⟨rfl, rfl, by decide, by decide, by decide, by decide⟩

/-- Both ends of each reserved range. -/
theorem witness_ReservedOffsetsReadZeroAndIgnoreWrites :
    (idle [wr .cmd 0#32]).rstN = true ∧ ReservedOffset 0x024#12 ∧ ReservedOffset 0x02C#12 ∧ ReservedOffset 0x070#12 ∧
    ReservedOffset 0x0FC#12 ∧ ReservedOffset 0x1B0#12 ∧ ReservedOffset 0xFFC#12 ∧ ¬ ReservedOffset 0x020#12 ∧
    ¬ ReservedOffset 0x1AC#12 := by
  refine ⟨rfl, ?_⟩
  unfold ReservedOffset
  decide

theorem witness_ReadOnlyRegistersIgnoreWrites :
    (expanding [wr (.rk 43) 1#32]).rstN = true ∧ (expanding [wr (.rk 43) 1#32]).events = wr (.rk 43) 1#32 :: [] ∧
    ∃ i, Reg.rk 43 = .rk i := ⟨rfl, rfl, 43, rfl⟩

theorem witness_ReadsHaveNoSideEffect :
    (idle [.bus (.read 0xFFC#12)]).rstN = true ∧ (idle [.bus (.read 0xFFC#12)]).events = .bus (.read 0xFFC#12) :: [] ∧
    (0xFFC#12).toNat % 4 = 0 ∧ (idle [rd (.rk 43)]).rstN = true ∧ (idle [rd (.rk 43)]).events = rd (.rk 43) :: [] :=
  ⟨rfl, rfl, rfl, rfl, rfl⟩

/-- Busy as well as idle. -/
theorem witness_ReadWriteRegistersOnlyStoreTheValue :
    (expanding [wr (.key 3) 7#32]).rstN = true ∧ (expanding [wr (.key 3) 7#32]).events = wr (.key 3) 7#32 :: [] ∧
    storedBits (.key 3) = some 0xFFFFFFFF#32 ∧ storedBits .gfOps = some 0x0000FFFF#32 ∧
    storedBits .irqEn = some 0x00000003#32 ∧ storedBits (.din 0) = some 0xFFFFFFFF#32 := ⟨rfl, rfl, rfl, rfl, rfl, rfl⟩

theorem witness_RegistersReadAsTheirTablesSay :
    (busyNop []).busy = true ∧ (idle []).busy = false ∧ (idle []).ksValid = false ∧ (keyed []).ksValid = true :=
  ⟨rfl, rfl, rfl, rfl⟩

theorem witness_StatusAndIrqStatusWritesClear :
    (failedOnce [wr .status 4#32]).rstN = true ∧ (failedOnce [wr .status 4#32]).events = wr .status 4#32 :: [] ∧
    (4#32).getLsbD 2 = true ∧ (0xFFFFFFFB#32).getLsbD 2 = false ∧
    (failedOnce [wr .irqStatus 1#32]).events = wr .irqStatus 1#32 :: [] := ⟨rfl, rfl, rfl, rfl, rfl⟩

/-- Both edges of the pin, and an idle core with a completion event and with none. -/
theorem witness_HardwareResetResetsEveryRegister :
    (expanding [.rstLow, .rstHigh]).events = .rstLow :: [.rstHigh] ∧
    (expanding [.rstHigh]).events = .rstHigh :: [] ∧
    (keyed [.completion]).rstN = true ∧ (keyed [.completion]).pending = none ∧
    (keyed [.completion]).events = .completion :: [] ∧ (keyed []).rstN = true ∧ (keyed []).pending = none ∧
    (keyed []).events = [] := ⟨rfl, rfl, rfl, rfl, rfl, rfl, rfl, rfl⟩

theorem witness_SoftResetResetsAtTheWrite :
    (expanding [srst]).rstN = true ∧ (expanding [srst]).events = wr .ctrl 1#32 :: [] ∧ (1#32).getLsbD 0 = true ∧
    (0xFFFFFFFE#32).getLsbD 0 = false := ⟨rfl, rfl, rfl, rfl⟩

theorem witness_RoundKeyStorageIsUnobservableUntilValid :
    Inv (expanding [.completion]) ∧ (expanding [.completion]).ksValid = false := ⟨inv_expanding _, rfl⟩

theorem witness_EveryStepKeepsTheInvariant : Inv (expanding [.completion]) ∧ ∃ t, step (expanding [.completion]) = .next t :=
  ⟨inv_expanding _, _, rfl⟩

/-- A schedule kept, one given up at acceptance, one given up at a reset, and one gained. -/
theorem witness_ScheduleChangesOnlyByExpandKeyOrReset :
    (Inv (keyed []) ∧ ∃ t, step (keyed []) = .next t ∧ t.ksValid = true) ∧
    (Inv (keyed [cmd (.expandKey 16#5)]) ∧ ∃ t, step (keyed [cmd (.expandKey 16#5)]) = .next t ∧ t.ksValid = false) ∧
    (Inv (keyed [srst]) ∧ ∃ t, step (keyed [srst]) = .next t ∧ t.ksValid = false) ∧
    (Inv (expanding [.completion]) ∧ (expanding [.completion]).ksValid = false ∧
      ∃ t, step (expanding [.completion]) = .next t ∧ t.ksValid = true) :=
  ⟨⟨inv_keyed _, _, rfl, rfl⟩, ⟨inv_keyed _, _, rfl, rfl⟩, ⟨inv_keyed _, _, rfl, rfl⟩, ⟨inv_expanding _, rfl, _, rfl, rfl⟩⟩

theorem witness_OnlyTheHostWritesKeyAndDin :
    (∃ t, step (idle [wr (.key 3) 7#32]) = .next t ∧ t.key ≠ (idle [wr (.key 3) 7#32]).key) ∧
    (∃ t, step (idle [wr (.din 0) 7#32]) = .next t ∧ t.din ≠ (idle [wr (.din 0) 7#32]).din) :=
  ⟨⟨_, rfl, by decide⟩, ⟨_, rfl, by decide⟩⟩

/-- Busy with LOAD_STATE, and with PAD. -/
def loading (es : List Event) : State := { idle es with busy := true, pending := some ⟨0x03#5, stateWrites v1Plain⟩ }
def padding (es : List Event) : State := { idle es with busy := true, pending := some ⟨0x0B#5, doutWrites v1Plain⟩ }

theorem witness_ResultRegistersChangeOnlyAtTheirCompletions :
    (Inv (multiplying [.completion]) ∧
      ∃ t, step (multiplying [.completion]) = .next t ∧ t.gfRes ≠ (multiplying [.completion]).gfRes) ∧
    (Inv (loading [.completion]) ∧ ∃ t, step (loading [.completion]) = .next t ∧ t.state ≠ (loading [.completion]).state) ∧
    (Inv (padding [.completion]) ∧ ∃ t, step (padding [.completion]) = .next t ∧ t.dout ≠ (padding [.completion]).dout) := by
  refine ⟨⟨inv_multiplying _, _, rfl, by decide⟩, ⟨?_, _, rfl, by decide⟩, ⟨?_, _, rfl, by decide⟩⟩
  · exact { inv_idle [.completion] with
      busyIffPending := by simp [loading]
      commitLegal := fun p hp => by cases hp; exact ⟨v1Plain, rfl⟩
      expandingNotValid := fun p hp ho => by cases hp; cases ho
      resetWhileLow := fun h => nomatch h }
  · exact { inv_idle [.completion] with
      busyIffPending := by simp [padding]
      commitLegal := fun p hp => by cases hp; exact ⟨v1Plain, rfl⟩
      expandingNotValid := fun p hp ho => by cases hp; cases ho
      resetWhileLow := fun h => nomatch h }

/-- Two cores in adjacent blocks; the last address of the first block. -/
def twoCores : Platform := [⟨0x1000, idle []⟩, ⟨0x2000, busyNop []⟩]

theorem witness_CoresOfAPlatformAreIndependent :
    (∃ p', twoCores.stepInstance 0 = .next p') ∧ (∃ s, step (idle []) = .next s) ∧ (1 : Nat) ≠ 0 ∧ twoCores.wf = true ∧
    twoCores[0]? = some ⟨0x1000, idle []⟩ ∧ (⟨0x1000, idle []⟩ : Instance).claims 0x1FFF = true := by
  refine ⟨⟨_, rfl⟩, ⟨_, rfl⟩, ?_, ?_, rfl, ?_⟩ <;> decide

/-- 30_encoding.md R92 and 20_memory.md R60: a read at the last offset of the second core's block. -/
theorem test_place_reaches_one_core :
    (twoCores.place 0x2FFC .read).map (fun x => x.core.events) = [[], [.bus (.read 0xFFC#12)]] := by decide

end Sys2Proof.Tests
end

section
/-! SUPPORT. Packing (00_scope.md R15): byte `4c + r` of the sixteen is row `r` of column `c`, so `pack` and `unpack`
are read through element and byte access of blocks. -/

namespace Sys2Proof

open Machine

/-- Every position in a block is a row of a column. -/
theorem exists_row_column (i : Fin 16) : ∃ r c : Fin 4, i.val = 4 * c.val + r.val :=
  ⟨⟨i.val % 4, by omega⟩, ⟨i.val / 4, by omega⟩, (Nat.div_add_mod i.val 4).symm⟩

/-- Every row of a column has a position in the block. -/
theorem exists_position (r c : Fin 4) : ∃ i : Fin 16, i.val = 4 * c.val + r.val :=
  ⟨⟨4 * c.val + r.val, by omega⟩, rfl⟩

theorem Block.unpack_eq_byte (b : Block) {r c : Fin 4} {i : Fin 16} (h : i.val = 4 * c.val + r.val) :
    b.unpack i = b.byte r c := by
  have hc : Fin.ofNat 4 (i.val / 4) = c := Fin.ext (by rw [Fin.val_ofNat]; omega)
  have hr : Fin.ofNat 4 (i.val % 4) = r := Fin.ext (by rw [Fin.val_ofNat]; omega)
  rw [Block.unpack, Block.byte, hc, hr]

theorem Block.get_pack (v : Fin 16 → Byte) {j : Fin 4} {i0 i1 i2 i3 : Fin 16} (h0 : i0.val = 4 * j.val)
    (h1 : i1.val = 4 * j.val + 1) (h2 : i2.val = 4 * j.val + 2) (h3 : i3.val = 4 * j.val + 3) :
    (Block.pack v).get j = wordOf (v i0) (v i1) (v i2) (v i3) := by
  rw [Block.pack, Block.get_ofFn, ← h1, ← h2, ← h3, ← h0]
  simp only [Fin.ofNat_val_eq_self]

theorem Block.byte_pack (v : Fin 16 → Byte) {r c : Fin 4} {i : Fin 16} (h : i.val = 4 * c.val + r.val) :
    (Block.pack v).byte r c = v i := by
  have hi : Fin.ofNat 16 (4 * c.val + r.val) = i := by rw [← h, Fin.ofNat_val_eq_self]
  rw [Block.byte, Block.pack, Block.get_ofFn, byteOf_wordOf, ← hi]
  fin_cases r <;> rfl

@[simp] theorem Block.pack_unpack (b : Block) : Block.pack b.unpack = b :=
  Block.ext_byte fun r c => by
    obtain ⟨i, hi⟩ := exists_position r c
    rw [Block.byte_pack _ hi, Block.unpack_eq_byte b hi]

@[simp] theorem Block.unpack_pack (v : Fin 16 → Byte) (i : Fin 16) : (Block.pack v).unpack i = v i := by
  obtain ⟨r, c, hi⟩ := exists_row_column i
  rw [Block.unpack_eq_byte _ hi, Block.byte_pack v hi]

/-- Settles O40: both inverses and the byte order follow from the one position `4c + r` of row `r`, column `c`. -/
theorem packAndUnpackAreInverse : Obligations.PackAndUnpackAreInverse := by
  unfold Obligations.PackAndUnpackAreInverse
  exact ⟨Block.pack_unpack, Block.unpack_pack, fun v _ _ _ _ _ => Block.get_pack v,
    fun b _ _ _ h => (Block.unpack_eq_byte b h).symm, fun _ _ _ => rfl⟩

end Sys2Proof
end

section
/-! SUPPORT. The register map read backwards (10_state.md R21, R41), the register words bit by bit (R24, R26, R28, R29,
R31, R32), and what a write of STATUS or IRQ_STATUS leaves (R25, R29). -/

namespace Sys2Proof.Machine

/-! ## The register map -/

/-- An array's element is at its number of words from the array's base, below the end of the 4 KiB. -/
theorem toNat_elementOffset {base j : Nat} (h : base + 4 * j < 4096) :
    (BitVec.ofNat 12 (base + 4 * j)).toNat = base + 4 * j := by
  rw [BitVec.toNat_ofNat, Nat.mod_eq_of_lt h]

/-- An aligned offset inside an array of `n` registers from `base` is that of its element. -/
theorem eq_elementOffset {n : Nat} [NeZero n] {base : Nat} {a : BitVec 12} (ha : a.toNat % 4 = 0) (hbase : base % 4 = 0)
    (hle : base ≤ a.toNat) (hlt : a.toNat < base + 4 * n) :
    a = BitVec.ofNat 12 (base + 4 * (elementAt n base a.toNat).val) := by
  have hval : base + 4 * (elementAt n base a.toNat).val = a.toNat := by
    rw [elementAt, Fin.val_ofNat, Nat.mod_eq_of_lt (by omega)]
    omega
  rw [hval, BitVec.ofNat_toNat, BitVec.setWidth_eq]

/-- 10_state.md R41: an offset that answers is the offset of the register it answers with. The branches of
`regAt` are the nine single registers, then the five arrays. -/
theorem eq_offset_of_regAt {a : BitVec 12} {r : Reg} (h : regAt a = some r) : a = r.offset := by
  unfold regAt at h
  obtain ⟨-, h⟩ | ⟨halign, h⟩ := ite_eq_iff.mp h
  · cases h
  rw [not_not] at halign
  iterate 9
    obtain ⟨ha, hr⟩ | ⟨-, h⟩ := ite_eq_iff.mp h
    · cases hr; exact BitVec.eq_of_toNat_eq ha
  iterate 5
    obtain ⟨⟨hle, hlt⟩, hr⟩ | ⟨-, h⟩ := ite_eq_iff.mp h
    · cases hr; exact eq_elementOffset halign rfl hle hlt
  cases h

/-- The events that write a register: those whose offset answers with it. -/
theorem bus_write_eq_wr {a : BitVec 12} {r : Reg} (v : Word) (h : regAt a = some r) :
    Event.bus (.write a v 0b1111#4) = wr r v := by
  rw [wr, eq_offset_of_regAt h]

/-! ## The register words -/

theorem getLsbD_statusWord (s : State) (n : Nat) : s.statusWord.getLsbD n =
    ((n = 0 && s.busy) || (n = 1 && s.ksValid) || (n = 2 && s.err) || (n = 3 && s.errOvf)) := by
  rw [State.statusWord, BitVec.getLsbD_append, BitVec.getLsbD_append, BitVec.getLsbD_append, BitVec.getLsbD_append]
  match n with
  | 0 | 1 | 2 | 3 => simp [bit]
  | n + 4 => simp

theorem IrqBits.getLsbD_toWord (b : IrqBits) (n : Nat) :
    b.toWord.getLsbD n = ((n = 0 && b.done) || (n = 1 && b.err)) := by
  rw [IrqBits.toWord, BitVec.getLsbD_append, BitVec.getLsbD_append]
  match n with
  | 0 | 1 => simp [bit]
  | n + 2 => simp

/-- A write of IRQ_STATUS clears the bits written as 1 (10_state.md R29), as the word reads. -/
theorem toWord_irqStatusAfterW1C (b : IrqBits) (v : Word) :
    (irqStatusAfterW1C b v).toWord = b.toWord &&& ~~~ v := by
  apply BitVec.eq_of_getLsbD_eq
  intro i hi
  rw [BitVec.getLsbD_and, BitVec.getLsbD_not, IrqBits.getLsbD_toWord, IrqBits.getLsbD_toWord, irqStatusAfterW1C]
  match i with
  | 0 | 1 => simp
  | n + 2 => simp

theorem errcodeWord_fields (s : State) :
    s.errcodeWord.extractLsb' 0 4 = s.errCode ∧ s.errcodeWord.extractLsb' 4 4 = 0#4 ∧
      s.errcodeWord.extractLsb' 8 5 = s.errOp ∧ s.errcodeWord.extractLsb' 13 19 = 0#19 := by
  simp only [State.errcodeWord]
  refine ⟨?_, ?_, ?_, ?_⟩ <;> ext i hi <;> simp <;> grind

theorem gfOpsWord_fields (s : State) :
    s.gfOpsWord.extractLsb' 0 8 = s.gfA ∧ s.gfOpsWord.extractLsb' 8 8 = s.gfB ∧
      s.gfOpsWord.extractLsb' 16 16 = 0#16 := by
  simp only [State.gfOpsWord]
  refine ⟨?_, ?_, ?_⟩ <;> ext i hi <;> simp <;> grind

theorem gfResWord_eq_setWidth (s : State) : s.gfResWord = s.gfRes.setWidth 32 :=
  (BitVec.setWidth_eq_append (by decide)).symm

/-! ## Writes that clear -/

theorem statusWrite_clears {v : Word} (h : v.getLsbD 2 = true) (s : State) : statusWrite v s = clearErrors s := if_pos h

theorem statusWrite_ignored {v : Word} (h : v.getLsbD 2 = false) (s : State) : statusWrite v s = s :=
  if_neg (Bool.eq_false_iff.mp h)

end Sys2Proof.Machine

namespace Sys2Proof

open Machine

/-- Settles O41: the offsets are read off the table, and `regAt` inverts them in both directions. -/
theorem registerMapHasNoAliases : Obligations.RegisterMapHasNoAliases := by
  unfold Obligations.RegisterMapHasNoAliases
  exact ⟨⟨rfl, rfl, rfl, rfl, rfl, rfl, rfl, rfl, rfl⟩,
    fun j => ⟨toNat_elementOffset (by omega), toNat_elementOffset (by omega), toNat_elementOffset (by omega),
      toNat_elementOffset (by omega)⟩,
    fun i => toNat_elementOffset (by omega), regAt_offset, fun _ _ => eq_offset_of_regAt⟩

/-- Settles O47: each register's read is its word, and the words have their fields at the tabled bits. -/
theorem registersReadAsTheirTablesSay : Obligations.RegistersReadAsTheirTablesSay := by
  unfold Obligations.RegistersReadAsTheirTablesSay
  intro s
  obtain ⟨hcode, hgap, hop, hrsv⟩ := errcodeWord_fields s
  obtain ⟨ha, hb, hgf⟩ := gfOpsWord_fields s
  exact ⟨rfl, rfl, rfl, getLsbD_statusWord s, hcode, hgap, hop, hrsv, IrqBits.getLsbD_toWord _,
    IrqBits.getLsbD_toWord _, ha, hb, hgf, gfResWord_eq_setWidth s, fun _ => rfl, fun _ => rfl, fun _ => rfl,
    fun _ => ⟨fun hb => if_pos hb, fun hb => if_neg (Bool.eq_false_iff.mp hb)⟩,
    fun _ => ⟨fun hk => if_neg (Bool.eq_false_iff.mp hk), fun hk => if_pos hk⟩⟩

/-- Settles O48: both writes are answered, and then do what `statusWrite` and `irqStatusAfterW1C` say. -/
theorem statusAndIrqStatusWritesClear : Obligations.StatusAndIrqStatusWritesClear := by
  unfold Obligations.StatusAndIrqStatusWritesClear
  constructor
  · intro s v es hr he
    have hs : step s = .next (statusWrite v (s.served es (.writeDone false))) := step_wr he hr
    exact ⟨fun hv => by rw [hs, statusWrite_clears hv]; rfl, fun hv => by rw [hs, statusWrite_ignored hv]⟩
  · intro s v es hr he
    exact ⟨_, step_wr he hr, toWord_irqStatusAfterW1C s.irqStatus v, rfl⟩

end Sys2Proof
end

section
/-! SUPPORT. What a reset and a completion leave: every register at its reset value (70_reset_and_hazards.md R280), and,
for a commit its opcode may make (30_encoding.md R86), the result registers that opcode writes. -/

namespace Sys2Proof.Machine

/-! ## Resets -/

theorem registersReset_doReset (s : State) : RegistersReset (doReset s) := by
  constructor <;> rfl

theorem registersReset_hardwareReset (s : State) : RegistersReset (hardwareReset s) := by
  constructor <;> rfl

/-! ## Completions, field by field -/

theorem applyCommit_key (ws : List RegWrite) (s : State) : (applyCommit ws s).key = s.key := by
  obtain ⟨_, _, _, _, _, h⟩ := applyCommit_frame ws s
  rw [h]

theorem applyCommit_din (ws : List RegWrite) (s : State) : (applyCommit ws s).din = s.din := by
  obtain ⟨_, _, _, _, _, h⟩ := applyCommit_frame ws s
  rw [h]

@[simp] theorem complete_key (p : Pending) (s : State) : (complete p s).key = s.key := applyCommit_key p.commit s
@[simp] theorem complete_din (p : Pending) (s : State) : (complete p s).din = s.din := applyCommit_din p.commit s
@[simp] theorem complete_pending (p : Pending) (s : State) : (complete p s).pending = none := rfl
@[simp] theorem complete_done (p : Pending) (s : State) : (complete p s).irqStatus.done = true := rfl

/-! ## Legal commits -/

/-- The commits an opcode may make, one constructor per kind of commit (30_encoding.md R86). -/
inductive CommitCase : BitVec 5 → List RegWrite → Prop where
  | nothing : CommitCase 0x00#5 []
  | schedule (k : Block) : CommitCase 0x01#5 (scheduleWrites (expandKey k))
  | stateAndDout (x : Block) : CommitCase 0x02#5 (stateWrites x ++ doutWrites x)
  | state (op : BitVec 5) (x : Block) (hop : op ∈ [0x03#5, 0x05#5, 0x06#5, 0x07#5, 0x08#5, 0x09#5]) :
    CommitCase op (stateWrites x)
  | dout (op : BitVec 5) (x : Block) (hop : op ∈ [0x04#5, 0x0B#5]) : CommitCase op (doutWrites x)
  | gfRes (p : Byte) : CommitCase 0x0A#5 [.gfRes p]

/-- Everything a legal commit can be. -/
theorem legalCommit_cases {op : BitVec 5} {ws : List RegWrite} (h : LegalCommit op ws) : CommitCase op ws := by
  unfold LegalCommit at h
  split at h
  next heq => rw [h, BitVec.eq_of_toNat_eq (y := 0x00#5) heq]; exact .nothing
  next heq => obtain ⟨k, rfl⟩ := h; rw [BitVec.eq_of_toNat_eq (y := 0x01#5) heq]; exact .schedule k
  next heq => obtain ⟨x, rfl⟩ := h; rw [BitVec.eq_of_toNat_eq (y := 0x02#5) heq]; exact .stateAndDout x
  iterate 6
    next heq => obtain ⟨x, rfl⟩ := h; exact .state op x (by simp [← BitVec.toNat_inj, heq])
  iterate 2
    next heq => obtain ⟨x, rfl⟩ := h; exact .dout op x (by simp [← BitVec.toNat_inj, heq])
  next heq => obtain ⟨p, rfl⟩ := h; rw [BitVec.eq_of_toNat_eq (y := 0x0A#5) heq]; exact .gfRes p
  · exact h.elim

/-- The writes of ENCRYPT_BLOCK leave STATE and DOUT at `x` and touch nothing else. -/
@[simp] theorem applyCommit_stateAndDout (x : Block) (s : State) :
    applyCommit (stateWrites x ++ doutWrites x) s = { s with state := x, dout := x } := by
  rw [applyCommit_append, applyCommit_stateWrites, applyCommit_doutWrites]

@[simp] theorem applyWrite_gfRes (s : State) (p : Byte) : applyWrite s (.gfRes p) = { s with gfRes := p } := rfl

section
variable {op : BitVec 5} {ws : List RegWrite}

/-- A legal commit that makes the schedule valid stores a key's whole schedule (42_key_schedule.md R144); every other
one keeps KS_VALID and RK. -/
theorem CommitCase.scheduleOfAKey (h : CommitCase op ws) {s : State}
    (hs : s.ksValid = true → ∃ k : Block, s.rk = expandKey k) :
    (applyCommit ws s).ksValid = true → ∃ k : Block, (applyCommit ws s).rk = expandKey k := by
  cases h with
  | schedule k => simp
  | nothing | stateAndDout _ | state _ _ _ | dout _ _ _ | gfRes _ => simpa using hs

/-- DOUT is kept by every legal commit but those of ENCRYPT_BLOCK, STORE_STATE and PAD (10_state.md R35). -/
theorem CommitCase.op_of_dout_ne (h : CommitCase op ws) {s : State} (hne : (applyCommit ws s).dout ≠ s.dout) :
    op ∈ [0x02#5, 0x04#5, 0x0B#5] := by
  cases h with
  | stateAndDout _ => decide
  | dout _ _ hop => exact List.mem_cons_of_mem _ hop
  | nothing | schedule _ | state _ _ _ | gfRes _ => simp at hne

/-- STATE is kept by every legal commit but those of ENCRYPT_BLOCK, LOAD_STATE and the round commands (10_state.md
R36). -/
theorem CommitCase.op_of_state_ne (h : CommitCase op ws) {s : State} (hne : (applyCommit ws s).state ≠ s.state) :
    op ∈ [0x02#5, 0x03#5, 0x05#5, 0x06#5, 0x07#5, 0x08#5, 0x09#5] := by
  cases h with
  | stateAndDout _ => decide
  | state _ _ hop => exact List.mem_cons_of_mem _ hop
  | nothing | schedule _ | dout _ _ _ | gfRes _ => simp at hne

/-- GF_RES is kept by every legal commit but that of GF_MUL (10_state.md R32). -/
theorem CommitCase.op_of_gfRes_ne (h : CommitCase op ws) {s : State} (hne : (applyCommit ws s).gfRes ≠ s.gfRes) :
    op = 0x0A#5 := by
  cases h with
  | gfRes _ => rfl
  | nothing | schedule _ | stateAndDout _ | state _ _ _ | dout _ _ _ => simp at hne

end

end Sys2Proof.Machine
end

section
/-! SUPPORT. The invariant, operation by operation: it holds of a reset core, and each shared operation of
Machine/Ops.lean and each host write keeps it. -/

namespace Sys2Proof

open Machine

/-- A core at reset meets the invariant (70_reset_and_hazards.md R281), whatever its pin, its RK and its events. -/
theorem RegistersReset.inv {s : State} (h : RegistersReset s) : Inv s where
  busyIffPending := by simp [h.busy, h.pending]
  srstReadsZero := h.ctrlSrst
  noErrorNoRecord := fun _ => ⟨h.errCode, h.errOp, h.errOvf⟩
  errorCodeRaised := fun he => by simp [h.err] at he
  commitLegal := fun p hp => by simp [h.pending] at hp
  expandingNotValid := fun p hp => by simp [h.pending] at hp
  scheduleOfAKey := fun hk => by simp [h.ksValid] at hk
  resetWhileLow := fun _ => h

/-- EXPAND_KEY alone has a side effect at acceptance: it clears KS_VALID (40_command_issue.md R102). -/
theorem acceptSideEffect_cases (i : Instr) (s : State) :
    acceptSideEffect i s = { s with ksValid := false } ∨ (i.opcode ≠ 0x01#5 ∧ acceptSideEffect i s = s) := by
  cases i with
  | expandKey len => exact .inl rfl
  | _ => exact .inr ⟨by simp [Instr.opcode], rfl⟩

namespace Inv

/-- The events to come and the last response play no part in the invariant. -/
theorem withEvents {s : State} (h : Inv s) (es : List Event) : Inv { s with events := es } :=
  { h with resetWhileLow := fun hr => { h.resetWhileLow hr with } }

theorem served {s : State} (h : Inv s) (es : List Event) (r : BusResponse) : Inv (s.served es r) :=
  { h with resetWhileLow := fun hr => { h.resetWhileLow hr with } }

theorem releaseReset {s : State} (h : Inv s) : Inv (releaseReset s) :=
  { h with resetWhileLow := fun hr => nomatch hr }

section
variable {s : State} (h : Inv s) (hr : s.rstN = true)
include h hr

/-- A host write of IRQ_EN, GF_OPS, KEY or DIN, an IRQ_STATUS write, and DONE, change nothing the invariant speaks of
while `rst_n` is high. -/
theorem withHostRegisters (en st : IrqBits) (a b : Byte) (key din : Block) :
    Inv { s with irqEn := en, irqStatus := st, gfA := a, gfB := b, key := key, din := din } :=
  { h with resetWhileLow := by simp [hr] }

/-- An error of 60_exceptions.md R240 enters an empty record, and a recorded one stays (R242). -/
theorem raiseCmdError {e : ErrorCode} (he : e.toBits ∈ raisedCodes) (op : BitVec 5) : Inv (raiseCmdError e op s) where
  busyIffPending := by simpa using h.busyIffPending
  srstReadsZero := by simpa using h.srstReadsZero
  noErrorNoRecord := by simp
  errorCodeRaised := by
    intro _
    rw [raiseCmdError_errCode]
    split
    next herr => exact h.errorCodeRaised herr
    · exact he
  commitLegal := by simpa using h.commitLegal
  expandingNotValid := by simpa using h.expandingNotValid
  scheduleOfAKey := by simpa using h.scheduleOfAKey
  resetWhileLow := by simp [hr]

theorem failAtOnce {e : ErrorCode} (he : e.toBits ∈ raisedCodes) (op : BitVec 5) : Inv (failAtOnce e op s) :=
  (h.raiseCmdError hr he op).withHostRegisters (by simpa using hr) _ _ _ _ _ _

theorem clearErrors : Inv (clearErrors s) :=
  { h with
    noErrorNoRecord := fun _ => ⟨rfl, rfl, rfl⟩
    errorCodeRaised := fun he => nomatch he
    resetWhileLow := by simp [hr] }

theorem withoutSchedule : Inv { s with ksValid := false } :=
  { h with
    expandingNotValid := fun _ _ _ => rfl
    scheduleOfAKey := fun hk => nomatch hk
    resetWhileLow := by simp [hr] }

/-- Acceptance holds a legal commit, that of EXPAND_KEY without a valid schedule (40_command_issue.md R102). -/
theorem accept {op : BitVec 5} {ws : List RegWrite} (hlegal : LegalCommit op ws)
    (hexp : op = 0x01#5 → s.ksValid = false) : Inv (accept op ws s) :=
  { h with
    busyIffPending := by simp
    commitLegal := fun p hp => by cases hp; exact hlegal
    expandingNotValid := fun p hp hop => by cases hp; exact hexp hop
    resetWhileLow := by simp [hr] }

/-- Every accepted command keeps the invariant: EXPAND_KEY gives up the schedule (42_key_schedule.md R144). -/
theorem acceptCommand (i : Instr) (snap : Snapshot) :
    Inv (Machine.accept i.opcode (effectOf i snap) (acceptSideEffect i s)) := by
  have hlegal := effectOf_legal i snap
  obtain heq | ⟨hop, heq⟩ := acceptSideEffect_cases i s <;> rw [heq]
  · exact (h.withoutSchedule hr).accept hr hlegal fun _ => rfl
  · exact h.accept hr hlegal fun hexp => absurd hexp hop

/-- A completion ends the pending command with a commit its opcode may make (40_command_issue.md R103). -/
theorem complete {p : Pending} (hp : s.pending = some p) : Inv (complete p s) := by
  have hsched := (legalCommit_cases (h.commitLegal p hp)).scheduleOfAKey h.scheduleOfAKey
  rw [complete_eq]
  obtain ⟨st, d, rk, ks, g, hframe⟩ := applyCommit_frame p.commit s
  rw [hframe] at hsched ⊢
  exact { h with
    busyIffPending := by simp
    commitLegal := fun _ hq => nomatch hq
    expandingNotValid := fun _ hq => nomatch hq
    scheduleOfAKey := hsched
    resetWhileLow := by simp [hr] }

end

/-- The core's own step keeps the invariant, at a reset, idle or at a completion. -/
theorem internalEdge {s : State} (h : Inv s) : Inv (internalEdge s) := by
  obtain ⟨_, heq⟩ | ⟨_, _, heq⟩ | ⟨hr, p, hp, heq⟩ := internalEdge_cases s <;> rw [heq]
  · exact (registersReset_doReset s).inv
  · exact h
  · exact h.complete hr hp

end Inv

/-- The errors a CMD write fails with at once are codes the hardware raises (60_exceptions.md R240). -/
theorem toBits_mem_raisedCodes {e : ErrorCode}
    (h : e ∈ [ErrorCode.invalidKeyLength, .invalidBlockLength, .illegalCommand, .scheduleNotValid]) :
    e.toBits ∈ raisedCodes := by
  revert e
  decide

/-- Settles O54: every way to step keeps the invariant. -/
theorem everyStepKeepsTheInvariant : Obligations.EveryStepKeepsTheInvariant := by
  unfold Obligations.EveryStepKeepsTheInvariant
  intro s t h hs
  cases step_cases hs with
  | noEvent => exact h.internalEdge
  | completion es => exact (h.withEvents es).internalEdge
  | rstLow es => exact (registersReset_hardwareReset _).inv
  | rstHigh es => exact (h.withEvents es).releaseReset
  | answered x es => exact h.served es _
  | overrun a v es _ _ hr => exact (h.served es _).raiseCmdError hr (by decide) _
  | failed a v es _ _ hr _ e hc op => exact (h.served es _).failAtOnce hr (toBits_mem_raisedCodes hc) op
  | accepted a v es _ _ hr _ i => exact (h.served es _).acceptCommand hr i _
  | softReset => exact (registersReset_doReset _).inv
  | clearedErrors a v es _ _ hr => exact (h.served es _).clearErrors hr
  | irqEn a v es _ _ hr | irqStatus a v es _ _ hr | gfOps a v es _ _ hr | key a v es _ j _ hr | din a v es _ j _ hr =>
    exact (h.served es _).withHostRegisters hr _ _ _ _ _ _

end Sys2Proof
end

section
/-! SUPPORT. What one step can do to the registers no host transaction may change while a command runs (10_state.md
R38), to KEY and DIN (R33, R34), and to the result registers (R32, R35, R36). -/

namespace Sys2Proof.Machine

/-- The core's own step resets every register, or keeps KEY and DIN. -/
theorem internalEdge_keyDin (s : State) :
    RegistersReset (internalEdge s) ∨ ((internalEdge s).key = s.key ∧ (internalEdge s).din = s.din) := by
  obtain ⟨_, heq⟩ | ⟨_, _, heq⟩ | ⟨_, p, _, heq⟩ := internalEdge_cases s <;> rw [heq]
  · exact .inl (registersReset_doReset s)
  · exact .inr ⟨rfl, rfl⟩
  · exact .inr ⟨complete_key p s, complete_din p s⟩

/-- The four things a step can do to KEY and DIN: reset them, keep them, and write an element of one of them. -/
theorem step_keyDin {s t : State} (h : step s = .next t) :
    RegistersReset t ∨ (t.key = s.key ∧ t.din = s.din) ∨
    (t.din = s.din ∧ ∃ j v es, s.events = wr (.key j) v :: es) ∨
    (t.key = s.key ∧ ∃ j v es, s.events = wr (.din j) v :: es) := by
  cases step_cases h with
  | noEvent => exact (internalEdge_keyDin s).imp_right .inl
  | completion es => exact (internalEdge_keyDin { s with events := es }).imp_right .inl
  | rstLow => exact .inl (registersReset_hardwareReset _)
  | softReset => exact .inl (registersReset_doReset _)
  | key a v es he j ha => exact .inr (.inr (.inl ⟨rfl, j, v, es, by rw [he, bus_write_eq_wr v ha]⟩))
  | din a v es he j ha => exact .inr (.inr (.inr ⟨rfl, j, v, es, by rw [he, bus_write_eq_wr v ha]⟩))
  | overrun | failed => exact .inr (.inl (by simp [failAtOnce]))
  | accepted _ _ _ _ _ _ _ i =>
    obtain ⟨b, hb⟩ := acceptSideEffect_eq i _
    exact .inr (.inl (by rw [hb]; exact ⟨rfl, rfl⟩))
  | rstHigh | answered | clearedErrors | irqEn | irqStatus | gfOps => exact .inr (.inl ⟨rfl, rfl⟩)

/-- The result registers a completion writes besides RK are as they were. -/
def SameResults (s t : State) : Prop := t.dout = s.dout ∧ t.state = s.state ∧ t.gfRes = s.gfRes

/-- The core's own step resets every register, keeps the results, or completes the pending command. -/
theorem internalEdge_results (s : State) :
    RegistersReset (internalEdge s) ∨ SameResults s (internalEdge s) ∨
      ∃ p, s.pending = some p ∧ internalEdge s = complete p s := by
  obtain ⟨_, heq⟩ | ⟨_, _, heq⟩ | ⟨_, p, hp, heq⟩ := internalEdge_cases s
  · exact .inl (by rw [heq]; exact registersReset_doReset s)
  · exact .inr (.inl (by rw [heq]; exact ⟨rfl, rfl, rfl⟩))
  · exact .inr (.inr ⟨p, hp, heq⟩)

/-- The three things a step can do to the results: reset them, keep them, and complete the pending command. -/
theorem step_results {s t : State} (h : step s = .next t) :
    RegistersReset t ∨ SameResults s t ∨
      ∃ p es, s.pending = some p ∧ t = complete p { s with events := es } := by
  cases step_cases h with
  | noEvent =>
    exact (internalEdge_results s).imp_right (.imp_right fun ⟨p, hp, heq⟩ => ⟨p, s.events, hp, heq⟩)
  | completion es =>
    exact (internalEdge_results { s with events := es }).imp_right (.imp_right fun ⟨p, hp, heq⟩ => ⟨p, es, hp, heq⟩)
  | rstLow => exact .inl (registersReset_hardwareReset _)
  | softReset => exact .inl (registersReset_doReset _)
  | overrun | failed => exact .inr (.inl (by simp [SameResults, failAtOnce]))
  | accepted _ _ _ _ _ _ _ i =>
    obtain ⟨b, hb⟩ := acceptSideEffect_eq i _
    exact .inr (.inl (by rw [hb]; exact ⟨rfl, rfl, rfl⟩))
  | rstHigh | answered | clearedErrors | irqEn | irqStatus | gfOps | key | din => exact .inr (.inl ⟨rfl, rfl, rfl⟩)

end Sys2Proof.Machine

namespace Sys2Proof

open Machine

/-- Settles O12: with BUSY = 1 a transaction is answered, overruns, clears the error record, or writes a host register;
acceptance and failure at once need BUSY = 0, and only the excluded CTRL write resets. -/
theorem hostTransactionsLeaveThePendingCommandAlone : Obligations.HostTransactionsLeaveThePendingCommandAlone := by
  unfold Obligations.HostTransactionsLeaveThePendingCommandAlone
  intro s t x es _ hbusy hev hx hs
  cases step_cases hs with
  | noEvent he | completion _ he | rstLow _ he | rstHigh _ he => rw [he] at hev; cases hev
  | failed _ _ _ _ _ _ hb | accepted _ _ _ _ _ _ hb => rw [hb] at hbusy; cases hbusy
  | softReset a v _ he ha _ hv =>
    rw [he, bus_write_eq_wr v ha] at hev
    cases hev
    exact absurd rfl (hx v hv)
  | overrun => simp [hbusy]
  | irqStatus => simp [hbusy, irqStatusAfterW1C]
  | answered | clearedErrors | irqEn | gfOps | key | din => simp [hbusy]

/-- Settles O57, by the four things a step can do to KEY and DIN. -/
theorem onlyTheHostWritesKeyAndDin : Obligations.OnlyTheHostWritesKeyAndDin := by
  unfold Obligations.OnlyTheHostWritesKeyAndDin
  intro s t hs
  obtain hreset | ⟨hkey, hdin⟩ | ⟨hdin, hwrite⟩ | ⟨hkey, hwrite⟩ := step_keyDin hs
  · exact ⟨fun _ => .inl hreset, fun _ => .inl hreset⟩
  · exact ⟨fun hne => absurd hkey hne, fun hne => absurd hdin hne⟩
  · exact ⟨fun _ => .inr hwrite, fun hne => absurd hdin hne⟩
  · exact ⟨fun hne => absurd hkey hne, fun _ => .inr hwrite⟩

/-- Settles O58: a step that neither resets nor keeps the results completes the pending command, whose commit the
invariant makes legal for its opcode. -/
theorem resultRegistersChangeOnlyAtTheirCompletions : Obligations.ResultRegistersChangeOnlyAtTheirCompletions := by
  unfold Obligations.ResultRegistersChangeOnlyAtTheirCompletions
  intro s t hinv hs
  obtain hreset | ⟨hdout, hstate, hgf⟩ | ⟨p, es, hp, rfl⟩ := step_results hs
  · exact ⟨fun _ => .inl hreset, fun _ => .inl hreset, fun _ => .inl hreset⟩
  · exact ⟨fun hne => absurd hdout hne, fun hne => absurd hstate hne, fun hne => absurd hgf hne⟩
  · have hcommit := legalCommit_cases (hinv.commitLegal p hp)
    exact ⟨fun hne => .inr ⟨p, hp, complete_pending p _, complete_done p _, hcommit.op_of_dout_ne hne⟩,
      fun hne => .inr ⟨p, hp, complete_pending p _, complete_done p _, hcommit.op_of_state_ne hne⟩,
      fun hne => .inr ⟨p, hp, complete_pending p _, complete_done p _, hcommit.op_of_gfRes_ne hne⟩⟩

end Sys2Proof
end

section
/-! SUPPORT. What the port answers without touching the core (20_memory.md R55 to R59): illegal accesses, reserved
offsets, reads and writes of read-only registers; and what a write of a read-write register stores (10_state.md R28, R31,
R33, R34). -/

namespace Sys2Proof.Machine

/-! ## Legal and illegal accesses -/

theorem aligned_iff {a : BitVec 12} : aligned a = true ↔ a.toNat % 4 = 0 := decide_eq_true_iff

theorem busResponse_read_aligned {a : BitVec 12} (ha : a.toNat % 4 = 0) (s : State) :
    busResponse (.read a) s = .readDone (readOffset s a) false := if_pos (aligned_iff.mpr ha)

theorem busResponse_read_misaligned {a : BitVec 12} (ha : a.toNat % 4 ≠ 0) (s : State) :
    busResponse (.read a) s = .readDone 0#32 true := if_neg (mt aligned_iff.mp ha)

theorem legal_write_eq_false {a : BitVec 12} {strb : BitVec 4} (h : a.toNat % 4 ≠ 0 ∨ strb ≠ 0b1111#4) (v : Word) :
    (Transaction.write a v strb).legal = false := by
  rw [Transaction.legal, Bool.and_eq_false_iff]
  exact h.imp (fun ha => decide_eq_false ha) (fun hs => decide_eq_false hs)

section
variable {s : State} {a : BitVec 12} {v : Word} {es : List Event}

/-- A legal read is answered by what its offset reads, and does nothing (20_memory.md R59). -/
theorem step_read_aligned (hr : s.rstN = true) (he : s.events = .bus (.read a) :: es) (ha : a.toNat % 4 = 0) :
    step s = .next (s.served es (.readDone (readOffset s a) false)) := by
  rw [step_read he hr, busResponse_read_aligned ha]

/-- A write with a misaligned address or a strobe other than 1111 is answered by an error, and does nothing (20_memory.md
R56). -/
theorem step_write_illegal {strb : BitVec 4} (hr : s.rstN = true) (he : s.events = .bus (.write a v strb) :: es)
    (h : a.toNat % 4 ≠ 0 ∨ strb ≠ 0b1111#4) : step s = .next (s.served es (.writeDone true)) := by
  rw [step_bus he hr]
  simp [busEffect, busResponse, legal_write_eq_false h]

/-- A legal write at an offset without a register is answered without an error, and does nothing (20_memory.md R57). -/
theorem step_write_noRegister (hr : s.rstN = true) (he : s.events = .bus (.write a v 0b1111#4) :: es)
    (ha : a.toNat % 4 = 0) (hreg : regAt a = none) : step s = .next (s.served es (.writeDone false)) := by
  rw [step_bus he hr]
  simp [busEffect, busResponse, Transaction.legal, aligned_iff.mpr ha, writeOffset, hreg]

end

/-! ## Offsets with and without a register -/

theorem ite_some_eq_none_iff {α : Type} {p : Prop} [Decidable p] {x : α} {o : Option α} :
    (if p then some x else o) = none ↔ ¬ p ∧ o = none := by
  by_cases hp : p <;> simp [hp]

/-- 20_memory.md R57: the reserved offsets are those outside every range of the register table. -/
theorem regAt_eq_none_iff {a : BitVec 12} (ha : a.toNat % 4 = 0) : regAt a = none ↔ ReservedOffset a := by
  have hlt := a.isLt
  simp only [regAt, ReservedOffset, ha, ne_eq, not_true_eq_false, if_false, ite_some_eq_none_iff, true_and,
    and_true]
  omega

theorem regAt_reserved {a : BitVec 12} (h : ReservedOffset a) : regAt a = none := (regAt_eq_none_iff h.1).mpr h

theorem readOffset_reserved {a : BitVec 12} (h : ReservedOffset a) (s : State) : readOffset s a = 0#32 := by
  rw [readOffset, regAt_reserved h]

@[simp] theorem readOffset_offset (s : State) (r : Reg) : readOffset s r.offset = readReg s r := by
  rw [readOffset, regAt_offset]

/-! ## Read-write registers -/

@[simp] theorem readReg_served (s : State) (es : List Event) (a : BusResponse) (r : Reg) :
    readReg (s.served es a) r = readReg s r := by
  rw [← readOffset_offset, readOffset_served, readOffset_offset]

/-- A mask of the low `w` bits keeps the bits below `w`. -/
theorem getLsbD_and_lowMask {m : Word} {w : Nat} (hm : m.toNat = 2 ^ w - 1) (v : Word) (n : Nat) :
    (v &&& m).getLsbD n = (v.getLsbD n && decide (n < w)) := by
  rw [BitVec.getLsbD_and, BitVec.getLsbD, BitVec.getLsbD, hm, Nat.testBit_two_pow_sub_one]

/-- IRQ_EN reads back bits 1:0 of what was written (10_state.md R28). -/
theorem toWord_irqEnOf (v : Word) : (irqEnOf v).toWord = v &&& 0x00000003#32 := by
  apply BitVec.eq_of_getLsbD_eq
  intro n hn
  rw [IrqBits.getLsbD_toWord, irqEnOf, getLsbD_and_lowMask (w := 2) rfl]
  match n with
  | 0 | 1 => simp
  | n + 2 => simp

/-- GF_OPS reads back bits 15:0 of what was written (10_state.md R31). -/
theorem gfOpsWord_stored (v : Word) (s : State) :
    State.gfOpsWord { s with gfA := v.extractLsb' 0 8, gfB := v.extractLsb' 8 8 } = v &&& 0x0000FFFF#32 := by
  apply BitVec.eq_of_getLsbD_eq
  intro n hn
  rw [State.gfOpsWord, getLsbD_and_lowMask (w := 16) rfl, BitVec.getLsbD_append, BitVec.getLsbD_append]
  by_cases hA : n < 8
  · simp [hA, show n < 16 by omega]
  · by_cases hB : n < 16
    · simp [hA, hB, show n - 8 < 8 by omega, show 8 + (n - 8) = n by omega]
    · simp [hA, hB, show ¬ n - 8 < 8 by omega]

/-- Every bit of KEY and of DIN stores (10_state.md R33, R34). -/
theorem and_fullMask (v : Word) : v &&& 0xFFFFFFFF#32 = v := BitVec.and_allOnes

/-- `t` is `s` with other contents of the read-write registers at most. -/
def SameButReadWrite (s t : State) : Prop :=
  ∃ en a b key din, t = { s with irqEn := en, gfA := a, gfB := b, key := key, din := din }

/-- A write of a read-write register reads back through the register's stored bits, and every other register reads as
before (20_memory.md R59). -/
theorem writeReg_stores {r : Reg} {m : Word} (h : storedBits r = some m) (v : Word) (s : State) :
    ∃ t, writeReg r v s = .next t ∧ SameButReadWrite s t ∧ readReg t r = v &&& m ∧
      ∀ r', r' ≠ r → readReg t r' = readReg s r' := by
  cases r with
  | irqEn =>
    cases h
    refine ⟨_, rfl, ⟨_, _, _, _, _, rfl⟩, toWord_irqEnOf v, fun r' hne => ?_⟩
    cases r' with
    | irqEn => exact absurd rfl hne
    | _ => rfl
  | gfOps =>
    cases h
    refine ⟨_, rfl, ⟨_, _, _, _, _, rfl⟩, gfOpsWord_stored v s, fun r' hne => ?_⟩
    cases r' with
    | gfOps => exact absurd rfl hne
    | _ => rfl
  | key j | din j =>
    cases h
    refine ⟨_, rfl, ⟨_, _, _, _, _, rfl⟩, by simp [readReg, and_fullMask], fun r' hne => ?_⟩
    cases r' with
    | key i | din i => simp_all [readReg]
    | _ => rfl
  | _ => cases h

end Sys2Proof.Machine

namespace Sys2Proof

open Machine

/-- Settles O42: an illegal access is answered by an error, and the core takes no part in it. -/
theorem illegalAccessesOnlyAnswerAnError : Obligations.IllegalAccessesOnlyAnswerAnError := by
  unfold Obligations.IllegalAccessesOnlyAnswerAnError
  exact ⟨fun s a es hr he ha => by rw [step_read he hr, busResponse_read_misaligned ha],
    fun s a v strb es hr he h => step_write_illegal hr he h⟩

/-- Settles O43: the reserved offsets are the aligned ones without a register, where a read finds 0 and a write
nothing. -/
theorem reservedOffsetsReadZeroAndIgnoreWrites : Obligations.ReservedOffsetsReadZeroAndIgnoreWrites := by
  unfold Obligations.ReservedOffsetsReadZeroAndIgnoreWrites
  refine ⟨fun a => regAt_eq_none_iff, fun s a es hr he h => ?_, fun s a v es hr he h => ?_⟩
  · rw [step_read_aligned hr he h.1, readOffset_reserved h]
  · exact step_write_noRegister hr he h.1 (regAt_reserved h)

/-- Settles O44: `writeReg` ignores each of these writes, in every state. -/
theorem readOnlyRegistersIgnoreWrites : Obligations.ReadOnlyRegistersIgnoreWrites := by
  unfold Obligations.ReadOnlyRegistersIgnoreWrites
  intro s r v es hr he hro
  have hignored : writeReg r v (s.served es (.writeDone false)) = .next (s.served es (.writeDone false)) := by
    obtain rfl | rfl | rfl | ⟨j, rfl⟩ | ⟨j, rfl⟩ | ⟨i, rfl⟩ := hro <;> rfl
  rw [step_wr he hr, hignored]

/-- Settles O45: a legal read only answers, and what the offsets read rests on neither the events nor the answer. -/
theorem readsHaveNoSideEffect : Obligations.ReadsHaveNoSideEffect := by
  unfold Obligations.ReadsHaveNoSideEffect
  refine ⟨fun s a es hr he ha => ⟨step_read_aligned hr he ha, readOffset_served s es _⟩, readOffset_offset,
    fun s r es hr he => ?_⟩
  rw [step_read_aligned hr he (aligned_iff.mp (aligned_offset r)), readOffset_offset]

/-- Settles O46: the write is answered, and then `writeReg` touches the read-write registers alone. -/
theorem readWriteRegistersOnlyStoreTheValue : Obligations.ReadWriteRegistersOnlyStoreTheValue := by
  unfold Obligations.ReadWriteRegistersOnlyStoreTheValue
  intro s r v m es hr he hm
  obtain ⟨t, hw, hframe, hread, hother⟩ := writeReg_stores hm v (s.served es (.writeDone false))
  refine ⟨t, (step_wr he hr).trans hw, hread, fun r' hne => by rw [hother r' hne, readReg_served], ?_⟩
  obtain ⟨en, a, b, key, din, rfl⟩ := hframe
  exact ⟨rfl, rfl, rfl, rfl, hr, rfl, rfl, rfl⟩

end Sys2Proof
end

section
/-! SUPPORT. The command word as its fields (30_encoding.md R81), and the decoder from both sides: the words it reads as a
command are exactly the encodings of the well-formed ones (R84, R91), and those it refuses are the ones R87 and R88
list. -/

namespace Sys2Proof

/-! ## Words and fields -/

/-- A word is its six fields, highest first (30_encoding.md R81). -/
theorem fields_append (v : Word) :
    rsv2Field v ++ lenField v ++ rsv1Field v ++ rndField v ++ rsv0Field v ++ opField v = v := by
  simp only [rsv2Field, lenField, rsv1Field, rndField, rsv0Field, opField]
  ext i hi
  simp
  grind

/-- The word of three fields, the reserved ones 0, field by field (30_encoding.md R81). -/
theorem commandWord_eq_append (len : BitVec 5) (rnd : BitVec 4) (op : BitVec 5) :
    commandWord len rnd op = 0#11 ++ len ++ 0#4 ++ rnd ++ 0#3 ++ op := by
  simp only [commandWord]
  ext i hi
  simp
  grind

/-- A word whose reserved fields are 0 is that of its other three fields. -/
theorem commandWord_fields {v : Word} (h0 : rsv0Field v = 0#3) (h1 : rsv1Field v = 0#4) (h2 : rsv2Field v = 0#11) :
    commandWord (lenField v) (rndField v) (opField v) = v := by
  rw [commandWord_eq_append, ← h0, ← h1, ← h2]
  exact fields_append v

/-- Every command's word holds its fields. -/
theorem encodedFields (i : Instr) : Laws.EncodedFields.Statement i := Laws.EncodedFields.fields_commandWord _ _ _

/-! ## The operand constraints of an opcode -/

section
variable {i j : Instr} {f : BitVec 5 → Instr} {g : BitVec 4 → Instr} {rnd : BitVec 4} {len : BitVec 5}

theorem decodePlain_eq_ok (h : decodePlain i rnd len = .ok j) : j = i ∧ rnd = 0#4 ∧ len = 0#5 := by
  unfold decodePlain at h
  obtain ⟨_, h⟩ | ⟨hrnd, h⟩ := ite_eq_iff.mp h
  · cases h
  obtain ⟨_, h⟩ | ⟨hlen, h⟩ := ite_eq_iff.mp h
  · cases h
  cases h
  exact ⟨rfl, not_not.mp hrnd, not_not.mp hlen⟩

theorem decodeLen_eq_ok (h : decodeLen f rnd len = .ok j) : j = f len ∧ rnd = 0#4 := by
  unfold decodeLen at h
  obtain ⟨_, h⟩ | ⟨hrnd, h⟩ := ite_eq_iff.mp h
  · cases h
  cases h
  exact ⟨rfl, not_not.mp hrnd⟩

theorem decodeRnd_eq_ok (h : decodeRnd g rnd len = .ok j) : j = g rnd ∧ roundIndexOk rnd = true ∧ len = 0#5 := by
  unfold decodeRnd at h
  obtain ⟨_, h⟩ | ⟨hlen, h⟩ := ite_eq_iff.mp h
  · cases h
  obtain ⟨hok, h⟩ | ⟨_, h⟩ := ite_eq_iff.mp h
  · cases h
    exact ⟨rfl, hok, not_not.mp hlen⟩
  · cases h

theorem decodePlain_refuses_iff : (∃ e, decodePlain i rnd len = .error e) ↔ rnd ≠ 0#4 ∨ len ≠ 0#5 := by
  by_cases hrnd : rnd = 0#4 <;> by_cases hlen : len = 0#5 <;> simp [decodePlain, hrnd, hlen]

theorem decodeLen_refuses_iff : (∃ e, decodeLen f rnd len = .error e) ↔ rnd ≠ 0#4 := by
  by_cases hrnd : rnd = 0#4 <;> simp [decodeLen, hrnd]

theorem decodeRnd_refuses_iff : (∃ e, decodeRnd g rnd len = .error e) ↔ 10 < rnd.toNat ∨ len ≠ 0#5 := by
  by_cases hlen : len = 0#5 <;> by_cases hok : rnd.toNat ≤ 10 <;>
    simp [decodeRnd, roundIndexOk, hlen, hok, Nat.not_lt.mpr, Nat.not_le.mp]

end

/-! ## The decoder -/

/-- What the case on the opcode reads, has that opcode and those operands, and is well formed. The branches of
`decodeOp` are the twelve opcodes in order, then the reserved ones. -/
theorem fields_of_decodeOp {op : BitVec 5} {rnd : BitVec 4} {len : BitVec 5} {i : Instr}
    (h : decodeOp op rnd len = .ok i) : op = i.opcode ∧ rnd = i.rndOf ∧ len = i.lenOf ∧ WellFormed i := by
  unfold decodeOp at h
  split at h
  case h_1 hop | h_5 hop | h_6 hop | h_7 hop | h_8 hop | h_11 hop =>
    obtain ⟨rfl, hrnd, hlen⟩ := decodePlain_eq_ok h
    exact ⟨BitVec.eq_of_toNat_eq hop, hrnd, hlen, rfl⟩
  case h_2 hop | h_3 hop | h_4 hop | h_12 hop =>
    obtain ⟨rfl, hrnd⟩ := decodeLen_eq_ok h
    exact ⟨BitVec.eq_of_toNat_eq hop, hrnd, rfl, rfl⟩
  case h_9 hop | h_10 hop =>
    obtain ⟨rfl, hok, hlen⟩ := decodeRnd_eq_ok h
    exact ⟨BitVec.eq_of_toNat_eq hop, rfl, hlen, hok⟩
  case h_13 => cases h

theorem decodeOp_of_fields {i : Instr} (h : WellFormed i) : decodeOp i.opcode i.rndOf i.lenOf = .ok i := by
  cases i with
  | addRoundKey rnd | round rnd => exact if_pos h
  | _ => rfl

/-- Where a reserved field is not 0, the word is refused (30_encoding.md R88). -/
theorem decode_of_reserved {v : Word} (h : rsv0Field v ≠ 0#3 ∨ rsv1Field v ≠ 0#4 ∨ rsv2Field v ≠ 0#11) :
    decode v = .error .reservedBits := if_pos h

/-- Where the reserved fields are 0, the opcode decides (30_encoding.md R84). -/
theorem decode_of_unreserved {v : Word} (h0 : rsv0Field v = 0#3) (h1 : rsv1Field v = 0#4) (h2 : rsv2Field v = 0#11) :
    decode v = decodeOp (opField v) (rndField v) (lenField v) := if_neg (by simp [h0, h1, h2])

theorem decode_encode {i : Instr} (h : WellFormed i) : decode (encode i) = .ok i := by
  obtain ⟨hop, h0, hrnd, h1, hlen, h2⟩ := encodedFields i
  rw [decode_of_unreserved h0 h1 h2, hop, hrnd, hlen, decodeOp_of_fields h]

theorem encode_of_decode {v : Word} {i : Instr} (h : decode v = .ok i) : encode i = v ∧ WellFormed i := by
  by_cases hrsv : rsv0Field v ≠ 0#3 ∨ rsv1Field v ≠ 0#4 ∨ rsv2Field v ≠ 0#11
  · rw [decode_of_reserved hrsv] at h
    cases h
  · push Not at hrsv
    obtain ⟨h0, h1, h2⟩ := hrsv
    rw [decode_of_unreserved h0 h1 h2] at h
    obtain ⟨hop, hrnd, hlen, hwf⟩ := fields_of_decodeOp h
    refine ⟨?_, hwf⟩
    rw [encode, ← hop, ← hrnd, ← hlen, commandWord_fields h0 h1 h2]

/-- The words of a command: its encoding, and only that, where it is well formed. -/
theorem decode_eq_ok_iff {v : Word} {i : Instr} : decode v = .ok i ↔ encode i = v ∧ WellFormed i :=
  ⟨encode_of_decode, fun ⟨hv, hwf⟩ => hv ▸ decode_encode hwf⟩

/-! ## The refused words -/

/-- What 30_encoding.md R87 and R88 make illegal in the fields OP, RND and LEN. -/
def IllegalFields (op : BitVec 5) (rnd : BitVec 4) (len : BitVec 5) : Prop :=
  op ∉ [0x00#5, 0x01#5, 0x02#5, 0x03#5, 0x04#5, 0x05#5, 0x06#5, 0x07#5, 0x08#5, 0x09#5, 0x0A#5, 0x0B#5] ∨
  (op ∉ [0x08#5, 0x09#5] ∧ rnd ≠ 0#4) ∨ (op ∈ [0x08#5, 0x09#5] ∧ 10 < rnd.toNat) ∨
  (op ∉ [0x01#5, 0x02#5, 0x03#5, 0x0B#5] ∧ len ≠ 0#5)

/-- The illegal words by their fields. -/
theorem illegalWord_iff (v : Word) : IllegalWord v ↔ rsv0Field v ≠ 0#3 ∨ rsv1Field v ≠ 0#4 ∨ rsv2Field v ≠ 0#11 ∨
    IllegalFields (opField v) (rndField v) (lenField v) := Iff.rfl

/-- The case on the opcode refuses the illegal fields: per opcode, the operands its constraints refuse. -/
theorem decodeOp_refuses_iff {op : BitVec 5} {rnd : BitVec 4} {len : BitVec 5} :
    (∃ e, decodeOp op rnd len = .error e) ↔ IllegalFields op rnd len := by
  unfold decodeOp
  split
  case h_1 hop | h_5 hop | h_6 hop | h_7 hop | h_8 hop | h_11 hop =>
    obtain ⟨-, rfl⟩ := BitVec.toNat_eq_nat.mp hop
    simp [decodePlain_refuses_iff, IllegalFields]
  case h_2 hop | h_3 hop | h_4 hop | h_12 hop =>
    obtain ⟨-, rfl⟩ := BitVec.toNat_eq_nat.mp hop
    simp [decodeLen_refuses_iff, IllegalFields]
  case h_9 hop | h_10 hop =>
    obtain ⟨-, rfl⟩ := BitVec.toNat_eq_nat.mp hop
    simp [decodeRnd_refuses_iff, IllegalFields]
  case h_13 =>
    refine ⟨fun _ => .inl fun hmem => ?_, fun _ => ⟨_, rfl⟩⟩
    fin_cases hmem <;> simp_all

/-- The decoder refuses exactly the illegal words (30_encoding.md R84, R87, R88). -/
theorem decode_refuses_iff (v : Word) : (∃ e, decode v = .error e) ↔ IllegalWord v := by
  rw [illegalWord_iff]
  by_cases hrsv : rsv0Field v ≠ 0#3 ∨ rsv1Field v ≠ 0#4 ∨ rsv2Field v ≠ 0#11
  · rw [decode_of_reserved hrsv]
    exact ⟨fun _ => hrsv.imp_right (.imp_right .inl), fun _ => ⟨_, rfl⟩⟩
  · push Not at hrsv
    obtain ⟨h0, h1, h2⟩ := hrsv
    rw [decode_of_unreserved h0 h1 h2, decodeOp_refuses_iff]
    simp [h0, h1, h2]

end Sys2Proof
end

section
/-! SUPPORT. The assembler's words (30_encoding.md R91), the CMD write (40_command_issue.md R100, R101), and a WAIT from
the accepted command to the STATUS read that sees it completed (30_encoding.md R93). -/

namespace Sys2Proof

/-! ## The assembler -/

/-- The word of a LEN command (30_encoding.md R91). -/
theorem commandWord_len (len op : BitVec 5) :
    commandWord len 0#4 op = len.setWidth 32 <<< 16 ||| op.setWidth 32 := by simp [commandWord]

/-- The word of an RND command (30_encoding.md R91). -/
theorem commandWord_rnd (rnd : BitVec 4) (op : BitVec 5) :
    commandWord 0#5 rnd op = rnd.setWidth 32 <<< 8 ||| op.setWidth 32 := by simp [commandWord]

/-- The word of a command without an operand (30_encoding.md R91). -/
theorem commandWord_plain (op : BitVec 5) : commandWord 0#5 0#4 op = op.setWidth 32 := by simp [commandWord]

theorem operandForm_len : ∀ op ∈ [0x01#5, 0x02#5, 0x03#5, 0x0B#5], operandForm op = some .lenOperand := by decide

theorem operandForm_rnd : ∀ op ∈ [0x08#5, 0x09#5], operandForm op = some .rndOperand := by decide

theorem operandForm_plain :
    ∀ op ∈ [0x00#5, 0x04#5, 0x05#5, 0x06#5, 0x07#5, 0x0A#5], operandForm op = some .noOperand := by decide

section
variable {op : BitVec 5} {n : Nat}

theorem assemble_len_fits (h : operandForm op = some .lenOperand) (hn : n < 32) :
    assemble op (some n) = some (BitVec.ofNat 32 n <<< 16 ||| op.setWidth 32) := by
  simp [assemble, h, hn, commandWord_len, BitVec.setWidth_ofNat_of_le_of_lt (w := 5) (v := 32) (by decide) hn]

theorem assemble_len_tooWide (h : operandForm op = some .lenOperand) (hn : 32 ≤ n) : assemble op (some n) = none := by
  simp [assemble, h, Nat.not_lt.mpr hn]

theorem assemble_rnd_fits (h : operandForm op = some .rndOperand) (hn : n < 16) :
    assemble op (some n) = some (BitVec.ofNat 32 n <<< 8 ||| op.setWidth 32) := by
  simp [assemble, h, hn, commandWord_rnd, BitVec.setWidth_ofNat_of_le_of_lt (w := 4) (v := 32) (by decide) hn]

theorem assemble_rnd_tooWide (h : operandForm op = some .rndOperand) (hn : 16 ≤ n) : assemble op (some n) = none := by
  simp [assemble, h, Nat.not_lt.mpr hn]

theorem assemble_plain (h : operandForm op = some .noOperand) : assemble op none = some (op.setWidth 32) := by
  simp [assemble, h, commandWord_plain]

end

end Sys2Proof

namespace Sys2Proof.Machine

/-! ## The CMD write -/

section
variable {s : State} {v : Word}

/-- An illegal word fails at once, with its OP (40_command_issue.md R101). -/
theorem cmdWrite_illegal (hb : s.busy = false) (h : IllegalWord v) :
    cmdWrite v s = .next (failAtOnce .illegalCommand (opField v) s) := by
  obtain ⟨e, he⟩ := (decode_refuses_iff v).mpr h
  simp [cmdWrite, hb, he]

/-- A command's word does what the command says, busy or idle (40_command_issue.md R100, R101). -/
theorem cmdWrite_of_decode {i : Instr} (h : decode v = .ok i) (s : State) : cmdWrite v s = exec i s := by
  cases hb : s.busy with
  | true =>
    obtain ⟨rfl, -⟩ := decode_eq_ok_iff.mp h
    simp [cmdWrite, hb, exec_busy, (encodedFields i).1]
  | false => simp [cmdWrite, hb, h]

end

/-! ## Runs -/

section
variable {s t : State} {es : List Event}

theorem core_run_next (h : step s = .next t) (n : Nat) : Sys2Proof.core.run (n + 1) s = Sys2Proof.core.run n t := by
  rw [core_run_succ, h]

theorem core_run_one (h : step s = .next t) : Sys2Proof.core.run 1 s = .next t := core_run_next h 0

/-- A host read of a register is answered by what the register reads (30_encoding.md R92). -/
theorem step_rd {r : Reg} (he : s.events = rd r :: es) (hr : s.rstN = true) :
    step s = .next (s.served es (.readDone (readReg s r) false)) := by
  rw [step_read_aligned hr he (aligned_iff.mp (aligned_offset r)), readOffset_offset]

/-- Reads of a register, one after another, leave a pending command pending (20_memory.md R59). -/
theorem core_run_reads {r : Reg} (n : Nat) (he : s.events = List.replicate n (rd r) ++ es) (hr : s.rstN = true) :
    ∃ t, Sys2Proof.core.run n s = .next t ∧ t.events = es ∧ t.rstN = true ∧ t.pending = s.pending := by
  induction n generalizing s with
  | zero => exact ⟨s, rfl, he, hr, rfl⟩
  | succ n ih =>
    have hread := step_rd (es := List.replicate n (rd r) ++ es) he hr
    obtain ⟨t, hrun, hend⟩ := ih (served_events s _ _) hr
    exact ⟨t, (core_run_next hread n).trans hrun, hend⟩

@[simp] theorem complete_busy (p : Pending) (s : State) : (complete p s).busy = false := rfl

@[simp] theorem complete_rstN (p : Pending) (s : State) : (complete p s).rstN = s.rstN := by
  obtain ⟨_, _, _, _, _, h⟩ := applyCommit_frame p.commit s
  rw [complete_eq, h]

@[simp] theorem complete_events (p : Pending) (s : State) : (complete p s).events = s.events := by
  obtain ⟨_, _, _, _, _, h⟩ := applyCommit_frame p.commit s
  rw [complete_eq, h]

/-- The completion of the pending command leaves the core idle, with DONE set (40_command_issue.md R103). -/
theorem step_completion_pending (he : s.events = .completion :: es) (hr : s.rstN = true) {p : Pending}
    (hp : s.pending = some p) :
    ∃ t, step s = .next t ∧ t.events = es ∧ t.rstN = true ∧ t.busy = false ∧ t.irqStatus.done = true :=
  ⟨_, (step_completion he).trans (congrArg Host.Outcome.next (internalEdge_pending hr hp)), complete_events p _,
    (complete_rstN p _).trans hr, complete_busy p _, complete_done p _⟩

/-- STATUS bit 0 is BUSY (10_state.md R24). -/
theorem getLsbD_status_zero (s : State) : (readReg s .status).getLsbD 0 = s.busy :=
  (getLsbD_statusWord s 0).trans (by simp)

/-- A WAIT takes a pending command through its completion to a STATUS read that sees BUSY = 0 (30_encoding.md R93). -/
theorem core_run_wait {p : Pending} (n : Nat) (he : s.events = wait n ++ es) (hr : s.rstN = true)
    (hp : s.pending = some p) :
    ∃ t w, Sys2Proof.core.run (n + 2) s = .next t ∧ t.events = es ∧ t.response = some (.readDone w false) ∧
      w.getLsbD 0 = false ∧ t.busy = false ∧ t.irqStatus.done = true := by
  rw [wait, List.append_assoc] at he
  obtain ⟨t, hreads, het, hrt, hpt⟩ := core_run_reads n he hr
  obtain ⟨u, hcomplete, heu, hru, hbusy, hdone⟩ := step_completion_pending het hrt (hpt.trans hp)
  have hrun := (core_run_add n 2 s t hreads).trans ((core_run_next hcomplete 1).trans (core_run_one (step_rd heu hru)))
  exact ⟨_, _, hrun, rfl, rfl, (getLsbD_status_zero u).trans hbusy, hbusy, hdone⟩

/-- The CMD write of a command that passes its check makes it pending (40_command_issue.md R102). -/
theorem step_cmd_accepted {i : Instr} (he : s.events = cmd i :: es) (hr : s.rstN = true) (hb : s.busy = false)
    (hwf : WellFormed i) (hc : checkOf i s.snapshot = none) :
    ∃ t p, step s = .next t ∧ t.events = es ∧ t.rstN = true ∧ t.pending = some p := by
  obtain ⟨b, hside⟩ := acceptSideEffect_eq i (s.served es (.writeDone false))
  have haccept := exec_accepted (s := s.served es (.writeDone false)) hb hc
  rw [hside] at haccept
  have hcmd := (cmdWrite_of_decode (decode_encode hwf) _).trans haccept
  exact ⟨_, _, (step_wr he hr).trans hcmd, rfl, hr, rfl⟩

end

end Sys2Proof.Machine

namespace Sys2Proof

open Machine

/-- Settles O2: the fields of the encoding are the command's own, and the case on its opcode reads them back. -/
theorem decodeOfEncodeIsTheCommand : Obligations.DecodeOfEncodeIsTheCommand := by
  unfold Obligations.DecodeOfEncodeIsTheCommand
  exact fun _ hwf => decode_eq_ok_iff.mpr ⟨rfl, hwf⟩

/-- Settles O3: a word the decoder reads has zeros in its reserved fields, so its other fields, which are the command's,
are all of it. -/
theorem encodeOfDecodeIsTheWord : Obligations.EncodeOfDecodeIsTheWord := by
  unfold Obligations.EncodeOfDecodeIsTheWord
  exact fun _ _ => decode_eq_ok_iff.mp

/-- Settles O4: the decoder refuses exactly the illegal words, and the CMD write of one fails at once. -/
theorem reservedEncodingsRaiseIllegalCommand : Obligations.ReservedEncodingsRaiseIllegalCommand := by
  unfold Obligations.ReservedEncodingsRaiseIllegalCommand
  refine ⟨decode_refuses_iff, fun s v es hr hb he hv => ?_⟩
  exact (step_wr he hr).trans (cmdWrite_illegal hb hv)

/-- Settles O5: by the operand form of each opcode. -/
theorem assemblerEmitsTableWordsAndRejectsWideOperands : Obligations.AssemblerEmitsTableWordsAndRejectsWideOperands := by
  unfold Obligations.AssemblerEmitsTableWordsAndRejectsWideOperands
  refine ⟨fun op hop n => ?_, fun op hop r => ?_, fun op hop => assemble_plain (operandForm_plain op hop)⟩
  · have hform := operandForm_len op hop
    exact ⟨assemble_len_fits hform, assemble_len_tooWide hform⟩
  · have hform := operandForm_rnd op hop
    exact ⟨assemble_rnd_fits hform, assemble_rnd_tooWide hform⟩

/-- Settles O1: each word is a small closed case of the decoder. -/
theorem encodingExamplesDecodeAsTabled : Obligations.EncodingExamplesDecodeAsTabled := by
  unfold Obligations.EncodingExamplesDecodeAsTabled
  exact ⟨rfl, rfl, rfl, rfl, ⟨_, rfl⟩, rfl, rfl, rfl, ⟨_, rfl⟩, ⟨_, rfl⟩, ⟨_, rfl⟩, ⟨_, rfl⟩⟩

/-- Settles O15: the CMD write is accepted, and the WAIT runs to the read after the completion. -/
theorem runPseudoInstructionEndsWithBusyClear : Obligations.RunPseudoInstructionEndsWithBusyClear := by
  unfold Obligations.RunPseudoInstructionEndsWithBusyClear
  intro s i n es hr hb _ hwf hc he
  have hcmd : s.events = cmd i :: (wait n ++ es) := he
  obtain ⟨t, p, haccept, het, hrt, hpt⟩ := step_cmd_accepted hcmd hr hb hwf hc
  obtain ⟨u, w, hwait, hend⟩ := core_run_wait n het hrt hpt
  exact ⟨u, w, (core_run_next haccept (n + 2)).trans hwait, hend⟩

end Sys2Proof
end

section
/-! SUPPORT. What a commit leaves in the registers, write by write (40_command_issue.md R103), completions as whole
states, the words with a command's OP that are not its own (30_encoding.md R83), and that BUSY falls
(40_command_issue.md R109). -/

namespace Sys2Proof.Machine

/-! ## Commits, write by write -/

/-- The register a write goes to holds the value written. -/
def Holds (s : State) : RegWrite → Prop
  | .state c v => s.state.get c = v
  | .dout c v => s.dout.get c = v
  | .rk i v => s.rk[i] = v
  | .ksValid b => s.ksValid = b
  | .gfRes p => s.gfRes = p

theorem holds_applyWrite_same (s : State) (w : RegWrite) : Holds (applyWrite s w) w := by
  cases w <;> simp [Holds, applyWrite]

/-- A write leaves every register but its own as it was. -/
theorem holds_applyWrite_other {s : State} {w w' : RegWrite} (hne : writeTarget w' ≠ writeTarget w) (h : Holds s w') :
    Holds (applyWrite s w) w' := by
  cases w with
  | state c v =>
    cases w' with
    | state c' v' =>
      have hc : c' ≠ c := fun heq => hne (congrArg Reg.state heq)
      simpa [Holds, applyWrite, hc] using h
    | _ => exact h
  | dout c v =>
    cases w' with
    | dout c' v' =>
      have hc : c' ≠ c := fun heq => hne (congrArg Reg.dout heq)
      simpa [Holds, applyWrite, hc] using h
    | _ => exact h
  | rk i v =>
    cases w' with
    | rk i' v' =>
      have hval : i.val ≠ i'.val := fun heq => hne (congrArg Reg.rk (Fin.ext heq.symm))
      exact (Vector.getElem_set_ne i.isLt i'.isLt hval).trans h
    | _ => exact h
  | ksValid b =>
    cases w' with
    | ksValid b' => exact absurd rfl hne
    | _ => exact h
  | gfRes p =>
    cases w' with
    | gfRes p' => exact absurd rfl hne
    | _ => exact h

section
variable {ws : List RegWrite} {w : RegWrite} {s : State}

/-- A register no write of the commit goes to keeps its value. -/
theorem holds_applyCommit_of_notMem (hw : writeTarget w ∉ ws.map writeTarget) (h : Holds s w) :
    Holds (applyCommit ws s) w := by
  induction ws generalizing s with
  | nil => exact h
  | cons v ws ih =>
    rw [List.map_cons, List.mem_cons, not_or] at hw
    obtain ⟨hne, hrest⟩ := hw
    exact ih hrest (holds_applyWrite_other hne h)

/-- Every write of a commit that names no register twice lands: no later write goes to its register. -/
theorem holds_applyCommit_of_mem (hnd : (ws.map writeTarget).Nodup) (hw : w ∈ ws) : Holds (applyCommit ws s) w := by
  induction ws generalizing s with
  | nil => cases hw
  | cons v ws ih =>
    rw [List.map_cons, List.nodup_cons] at hnd
    obtain ⟨hhead, hrest⟩ := hnd
    rw [applyCommit_cons]
    cases hw with
    | head => exact holds_applyCommit_of_notMem hhead (holds_applyWrite_same s w)
    | tail _ hmem => exact ih hrest hmem

end

/-! ## Completions -/

/-- With no event left, the pending command completes (log 2). -/
theorem step_nil_pending {s : State} {p : Pending} (he : s.events = []) (hr : s.rstN = true) (hp : s.pending = some p) :
    step s = .next { applyCommit p.commit s with
      pending := none, busy := false, irqStatus := ⟨true, s.irqStatus.err⟩ } := by
  rw [step_nil he, internalEdge_pending hr hp, complete_eq]

/-- A completion is what its commit does, and the end of the command. -/
theorem completesAs_of_applyCommit {p : Pending} {w : State → State} (h : ∀ u, applyCommit p.commit u = w u) :
    CompletesAs p w := by
  intro u es hr hp he
  have hedge : internalEdge { u with events := es } = complete p { u with events := es } := internalEdge_pending hr hp
  rw [step_completion he, hedge, complete_eq, applyCommit_events, h]

/-! ## The CMD write -/

/-- Where every command with this opcode has a `good` word, the other words with this OP are illegal. -/
theorem otherWordsAreIllegal {op : BitVec 5} {good : Word → Prop}
    (h : ∀ i : Instr, i.opcode = op → WellFormed i → good (encode i)) : OtherWordsAreIllegal op good := by
  intro s v es hr hb he hop hbad
  have hillegal : IllegalWord v := by
    rw [← decode_refuses_iff]
    cases hd : decode v with
    | error e => exact ⟨e, rfl⟩
    | ok i =>
      obtain ⟨rfl, hwf⟩ := decode_eq_ok_iff.mp hd
      exact absurd (h i ((encodedFields i).1.symm.trans hop) hwf) hbad
  rw [← hop]
  exact (step_wr he hr).trans (cmdWrite_illegal hb hillegal)

/-! ## Progress -/

/-- The CMD write of a command always has a next state (40_command_issue.md R105). -/
theorem exec_next (i : Instr) (s : State) : ∃ t, exec i s = .next t := by
  obtain ⟨-, h⟩ | ⟨-, _, -, h⟩ | ⟨-, -, h⟩ := exec_cases i s <;> exact ⟨_, h⟩

theorem cmdWrite_next (v : Word) (s : State) : ∃ t, cmdWrite v s = .next t := by
  cases hd : decode v with
  | ok i => rw [cmdWrite_of_decode hd]; exact exec_next i s
  | error e =>
    cases hb : s.busy with
    | true => exact ⟨_, if_pos hb⟩
    | false => exact ⟨_, cmdWrite_illegal hb ((decode_refuses_iff v).mp ⟨e, hd⟩)⟩

theorem writeReg_next (r : Reg) (v : Word) (s : State) : ∃ t, writeReg r v s = .next t := by
  cases r with
  | cmd => exact cmdWrite_next v s
  | _ => exact ⟨_, rfl⟩

theorem writeOffset_next (a : BitVec 12) (v : Word) (s : State) : ∃ t, writeOffset a v s = .next t := by
  unfold writeOffset
  split
  · exact writeReg_next _ v s
  · exact ⟨s, rfl⟩

theorem busEffect_next (x : Transaction) (s : State) : ∃ t, busEffect x s = .next t := by
  cases x with
  | read a => exact ⟨s, rfl⟩
  | write a v strb =>
    cases hlegal : (Transaction.write a v strb).legal with
    | true => simpa [busEffect, hlegal] using writeOffset_next a v s
    | false => simp [busEffect, hlegal]

/-- With `rst_n` high every step has a next state (60_exceptions.md R253). -/
theorem step_next_of_high {s : State} (hr : s.rstN = true) : ∃ t, step s = .next t := by
  cases he : s.events with
  | nil => exact ⟨_, step_nil he⟩
  | cons e es =>
    cases e with
    | bus x => rw [step_bus he hr]; exact busEffect_next x _
    | completion => exact ⟨_, step_completion he⟩
    | rstLow => exact ⟨_, step_rstLow he⟩
    | rstHigh => exact ⟨_, step_rstHigh he⟩

@[simp] theorem internalEdge_events (s : State) : (internalEdge s).events = s.events := by
  obtain ⟨-, h⟩ | ⟨-, -, h⟩ | ⟨-, p, -, h⟩ := internalEdge_cases s <;> simp [h]

/-- A step takes the next event off the events to come (20_memory.md R62). -/
theorem step_events {s t : State} (h : step s = .next t) : t.events = s.events.tail := by
  cases step_cases h with
  | noEvent he => simp [he]
  | completion es he | rstLow es he | rstHigh es he => simp [he]
  | accepted a v es he _ _ _ i =>
    obtain ⟨b, hside⟩ := acceptSideEffect_eq i (s.served es (.writeDone false))
    simp [he, hside]
  | overrun _ _ _ he | failed _ _ _ he => simp [failAtOnce, he]
  | answered _ _ he => simp [he]
  | softReset _ _ _ he | clearedErrors _ _ _ he | irqEn _ _ _ he | irqStatus _ _ _ he | gfOps _ _ _ he
  | key _ _ _ he | din _ _ _ he => simp [he]

end Sys2Proof.Machine

namespace Sys2Proof

open Machine

/-- While a command runs `rst_n` is high: with it low the core is at reset (70_reset_and_hazards.md R280). -/
theorem Inv.rstN_of_busy {s : State} (h : Inv s) (hb : s.busy = true) : s.rstN = true := by
  cases hr : s.rstN with
  | true => rfl
  | false => simp [(h.resetWhileLow hr).busy] at hb

theorem Inv.exists_pending_of_busy {s : State} (h : Inv s) (hb : s.busy = true) : ∃ p, s.pending = some p :=
  Option.ne_none_iff_exists'.mp (h.busyIffPending.mp hb)

/-- Settles O11: by the write that lands and the writes that go elsewhere; `applyCommit_frame` is the rest. -/
theorem commitWritesEachNamedRegisterOnly : Obligations.CommitWritesEachNamedRegisterOnly := by
  unfold Obligations.CommitWritesEachNamedRegisterOnly
  intro ws s hnd
  have hlands (w : RegWrite) (hw : w ∈ ws) : Holds (applyCommit ws s) w := holds_applyCommit_of_mem hnd hw
  have hkeeps (w : RegWrite) (hw : writeTarget w ∉ ws.map writeTarget) (h : Holds s w) : Holds (applyCommit ws s) w :=
    holds_applyCommit_of_notMem hw h
  refine ⟨fun c v => hlands (.state c v), fun c v => hlands (.dout c v), fun i v => hlands (.rk i v),
    fun b => hlands (.ksValid b), fun p => hlands (.gfRes p), fun c hc => hkeeps (.state c _) hc rfl,
    fun c hc => hkeeps (.dout c _) hc rfl, fun i hi => hkeeps (.rk i _) hi rfl,
    fun hs => hkeeps (.ksValid _) hs rfl, fun hg => hkeeps (.gfRes _) hg rfl, ?_⟩
  obtain ⟨_, _, _, _, _, hframe⟩ := applyCommit_frame ws s
  rw [hframe]

/-- Settles O13, by induction on the events to come: while BUSY is 1 every step has a next state, with one event less
to come, and with none left it is the completion. -/
theorem busyFallsWithinTheEventsToCome : Obligations.BusyFallsWithinTheEventsToCome := by
  unfold Obligations.BusyFallsWithinTheEventsToCome
  intro s hinv
  induction hes : s.events generalizing s with
  | nil =>
    cases hb : s.busy with
    | false => exact ⟨0, s, Nat.zero_le _, rfl, hb⟩
    | true =>
      obtain ⟨p, hp⟩ := hinv.exists_pending_of_busy hb
      exact ⟨1, _, le_rfl, core_run_one (step_nil_pending hes (hinv.rstN_of_busy hb) hp), rfl⟩
  | cons e es ih =>
    cases hb : s.busy with
    | false => exact ⟨0, s, Nat.zero_le _, rfl, hb⟩
    | true =>
      obtain ⟨t, hstep⟩ := step_next_of_high (hinv.rstN_of_busy hb)
      have htail : t.events = es := by rw [step_events hstep, hes, List.tail_cons]
      obtain ⟨n, u, hn, hrun, hidle⟩ := ih t (everyStepKeepsTheInvariant s t hinv hstep) htail
      exact ⟨n + 1, u, Nat.succ_le_succ hn, (core_run_next hstep n).trans hrun, hidle⟩

/-- Settles O16: no other command has this OP, and NOP's commit is empty. -/
theorem nopRunsAndChangesNothing : Obligations.NopRunsAndChangesNothing := by
  unfold Obligations.NopRunsAndChangesNothing
  have hword : encode .nop = 0x00000000#32 := rfl
  refine ⟨fun v => ?_, otherWordsAreIllegal fun i hop _ => ?_, fun s => ⟨fun hb => ?_, fun hb => exec_busy .nop hb⟩⟩
  · rw [decode_eq_ok_iff, hword]
    exact ⟨fun ⟨hv, _⟩ => hv.symm, fun hv => ⟨hv.symm, rfl⟩⟩
  · cases i with
    | nop => exact hword
    | _ => simp [Instr.opcode] at hop
  · exact ⟨⟨0x00#5, []⟩, rfl, exec_accepted hb rfl, completesAs_of_applyCommit applyCommit_nil⟩

/-- Settles O6: the write is answered, and then the decoded command runs, busy or idle. -/
theorem cmdWriteRunsTheDecodedCommand : Obligations.CmdWriteRunsTheDecodedCommand := by
  unfold Obligations.CmdWriteRunsTheDecodedCommand
  exact fun s v i es hr he hd => (step_wr he hr).trans (cmdWrite_of_decode hd _)

/-- Settles O10: both steps are the core's own, which completes the pending command. -/
theorem completionAppliesTheCommit : Obligations.CompletionAppliesTheCommit := by
  unfold Obligations.CompletionAppliesTheCommit
  exact fun s p hr hp => ⟨fun es he => completesAs_of_applyCommit (fun _ => rfl) s es hr hp he,
    fun he => step_nil_pending he hr hp⟩

end Sys2Proof
end

section
/-! SUPPORT. A byte as a polynomial over GF(2), and its residue modulo the AES polynomial (41_galois_field.md R120).
Distinct bytes have distinct residues and gmul multiplies residues, so the laws of gmul (R124) are those of the quotient
ring; the inverses are those the S-box holds under its affine map (R125). -/

namespace Sys2Proof.Machine

open Polynomial

/-! ## Bytes as polynomials -/

/-- The polynomial whose coefficient of `x^i` is bit `i` of the byte (41_galois_field.md R120). -/
noncomputable def bytePoly (a : Byte) : (ZMod 2)[X] := ∑ i ∈ Finset.range 8, if a.getLsbD i then X ^ i else 0

/-- x^8+x^4+x^3+x+1 (41_galois_field.md R120). -/
noncomputable def aesPoly : (ZMod 2)[X] := X ^ 8 + X ^ 4 + X ^ 3 + X + 1

theorem coeff_bytePoly (a : Byte) (i : Nat) : (bytePoly a).coeff i = if a.getLsbD i then 1 else 0 := by
  have hterm (j : Nat) : (if a.getLsbD j then (X : (ZMod 2)[X]) ^ j else 0).coeff i =
      if i = j then (if a.getLsbD j then 1 else 0) else 0 := by
    split <;> simp [coeff_X_pow]
  rw [bytePoly, finsetSum_coeff, Finset.sum_congr rfl fun j _ => hterm j, Finset.sum_ite_eq]
  split
  next => rfl
  next hi => simp [BitVec.getLsbD_of_ge a i (by simpa using hi)]

theorem bytePoly_zero : bytePoly 0x00#8 = 0 := by simp [bytePoly]

theorem bytePoly_one : bytePoly 0x01#8 = 1 := by simp [bytePoly]

theorem bytePoly_xor (a b : Byte) : bytePoly (a ^^^ b) = bytePoly a + bytePoly b := by
  ext i
  rw [coeff_add, coeff_bytePoly, coeff_bytePoly, coeff_bytePoly, BitVec.getLsbD_xor]
  cases a.getLsbD i <;> cases b.getLsbD i <;> simp [CharTwo.add_self_eq_zero]

theorem bytePoly_injective : Function.Injective bytePoly := by
  intro a b hab
  ext i hi
  have hcoeff : (bytePoly a).coeff i = (bytePoly b).coeff i := by rw [hab]
  rw [coeff_bytePoly, coeff_bytePoly] at hcoeff
  rw [← BitVec.getLsbD_eq_getElem, ← BitVec.getLsbD_eq_getElem]
  cases ha : a.getLsbD i <;> cases hb : b.getLsbD i <;> simp [ha, hb] at hcoeff ⊢

theorem degree_bytePoly_lt (a : Byte) : (bytePoly a).degree < aesPoly.degree := by
  have hdeg : aesPoly.degree = (8 : ℕ) := by unfold aesPoly; compute_degree!
  rw [hdeg, degree_lt_iff_coeff_zero]
  intro i hi
  rw [coeff_bytePoly, BitVec.getLsbD_of_ge a i hi]
  rfl

/-- Multiplication by x moves each bit up one place, and bit 7 to x^8. -/
theorem X_mul_bytePoly (a : Byte) : X * bytePoly a = bytePoly (a <<< 1) + if a.getLsbD 7 then X ^ 8 else 0 := by
  simp [bytePoly, Finset.sum_range_succ, mul_add, ← pow_succ', ← sq]

theorem bytePoly_selected (b : Byte) (i : Nat) (a : Byte) :
    bytePoly (selected b i a) = if b.getLsbD i then bytePoly a else 0 := by
  unfold selected
  split
  · rfl
  · exact bytePoly_zero

theorem aesPoly_eq : aesPoly = X ^ 8 + bytePoly 0x1B#8 := by
  have htail : bytePoly 0x1B#8 = 1 + X + X ^ 3 + X ^ 4 := by simp [bytePoly, Finset.sum_range_succ]
  rw [aesPoly, htail]
  ring

/-- xtime is multiplication by x, up to the AES polynomial where bit 7 is 1 (41_galois_field.md R121). -/
theorem X_mul_bytePoly_eq_xtime (a : Byte) :
    X * bytePoly a = bytePoly (xtime a) + if a.getLsbD 7 then aesPoly else 0 := by
  rw [X_mul_bytePoly, xtime_eq_selected, bytePoly_xor, bytePoly_selected]
  split
  · rw [aesPoly_eq, add_assoc, add_left_comm _ (X ^ 8), CharTwo.add_self_eq_zero, add_zero]
  · simp

/-! ## Residues -/

/-- The byte in the quotient ring of the polynomials over GF(2) by the AES polynomial. -/
noncomputable def residue (a : Byte) : AdjoinRoot aesPoly := AdjoinRoot.mk aesPoly (bytePoly a)

theorem residue_zero : residue 0x00#8 = 0 := by rw [residue, bytePoly_zero, map_zero]

theorem residue_one : residue 0x01#8 = 1 := by rw [residue, bytePoly_one, map_one]

theorem residue_xor (a b : Byte) : residue (a ^^^ b) = residue a + residue b := by
  rw [residue, bytePoly_xor, map_add]; rfl

theorem residue_xtime (a : Byte) : residue (xtime a) = AdjoinRoot.root aesPoly * residue a := by
  have h := congrArg (AdjoinRoot.mk aesPoly) (X_mul_bytePoly_eq_xtime a)
  rw [map_mul, map_add, AdjoinRoot.mk_X, apply_ite (AdjoinRoot.mk aesPoly), AdjoinRoot.mk_self, map_zero, ite_self,
    add_zero] at h
  exact h.symm

theorem residue_selected (b : Byte) (i : Nat) (a : Byte) :
    residue (selected b i a) = (if b.getLsbD i then 1 else 0) * residue a := by
  rw [residue, bytePoly_selected, apply_ite (AdjoinRoot.mk aesPoly), map_zero, ite_mul, one_mul, zero_mul]; rfl

/-- Bytes have degree below 8, so two with one residue are equal. -/
theorem residue_injective : Function.Injective residue := by
  intro a b hab
  have hdvd : aesPoly ∣ bytePoly a - bytePoly b := AdjoinRoot.mk_eq_mk.mp hab
  have hlt : (bytePoly a - bytePoly b).degree < aesPoly.degree :=
    (degree_sub_le _ _).trans_lt (max_lt (degree_bytePoly_lt a) (degree_bytePoly_lt b))
  exact bytePoly_injective (sub_eq_zero.mp (eq_zero_of_dvd_of_degree_lt hdvd hlt))

theorem residue_eq_sum (b : Byte) :
    residue b = ∑ i ∈ Finset.range 8, (if b.getLsbD i then 1 else 0) * AdjoinRoot.root aesPoly ^ i := by
  simp [residue, bytePoly, apply_ite (AdjoinRoot.mk aesPoly)]

/-- The multiples of `a` that the bits of `b` select add up to the product. -/
theorem residue_gmul (a b : Byte) : residue (gmul a b) = residue a * residue b := by
  rw [residue_eq_sum b, gmul_eq_selected]
  simp only [residue_xor, residue_selected, residue_xtime, Finset.sum_range_succ, Finset.sum_range_zero]
  ring

/-! ## The field laws -/

theorem gmul_comm (a b : Byte) : gmul a b = gmul b a :=
  residue_injective (by rw [residue_gmul, residue_gmul, mul_comm])

theorem gmul_assoc (a b c : Byte) : gmul (gmul a b) c = gmul a (gmul b c) :=
  residue_injective (by simp only [residue_gmul, mul_assoc])

theorem gmul_xor (a b c : Byte) : gmul a (b ^^^ c) = gmul a b ^^^ gmul a c :=
  residue_injective (by simp only [residue_gmul, residue_xor, mul_add])

theorem gmul_one (a : Byte) : gmul a 0x01#8 = a := residue_injective (by rw [residue_gmul, residue_one, mul_one])

theorem gmul_zero (a : Byte) : gmul a 0x00#8 = 0x00#8 :=
  residue_injective (by rw [residue_gmul, residue_zero, mul_zero])

theorem gmul_inverse_unique {a b c : Byte} (hb : gmul a b = 0x01#8) (hc : gmul a c = 0x01#8) : c = b := by
  calc c = gmul c (gmul a b) := by rw [hb, gmul_one]
    _ = gmul (gmul a c) b := by rw [← gmul_assoc, gmul_comm c a]
    _ = b := by rw [hc, gmul_comm, gmul_one]

/-! ## The S-box -/

/-- The affine map of the S-box, its bits as rotations (41_galois_field.md R125). -/
def sboxAffine (y : Byte) : Byte :=
  y ^^^ y.rotateRight 4 ^^^ y.rotateRight 5 ^^^ y.rotateRight 6 ^^^ y.rotateRight 7 ^^^ 0x63#8

/-- The affine map taken back (`sboxAffine_sboxAffineInverse`). -/
def sboxAffineInverse (z : Byte) : Byte := z.rotateLeft 1 ^^^ z.rotateLeft 3 ^^^ z.rotateLeft 6 ^^^ 0x05#8

/-- The field inverse of a byte, and 0 for 0: the S-box is the affine map of it, so the table holds it under that map
(41_galois_field.md R125). -/
def fieldInverse (x : Byte) : Byte := sboxAffineInverse (sbox x)

theorem sboxAffine_sboxAffineInverse : ∀ z : Byte, sboxAffine (sboxAffineInverse z) = z := by decide

theorem gmul_fieldInverse : ∀ x : Byte, x ≠ 0x00#8 → gmul x (fieldInverse x) = 0x01#8 := by decide

theorem sbox_ne_self : ∀ x : Byte, sbox x ≠ x := by decide

/-- The bits R125 gives of the affine map determine it. -/
theorem sboxAffine_eq {affine : Byte → Byte}
    (h : ∀ (y : Byte) (i : Nat), i < 8 → (affine y).getLsbD i =
      (y.getLsbD i ^^ y.getLsbD ((i + 4) % 8) ^^ y.getLsbD ((i + 5) % 8) ^^ y.getLsbD ((i + 6) % 8) ^^
        y.getLsbD ((i + 7) % 8) ^^ (0x63#8).getLsbD i)) (y : Byte) : affine y = sboxAffine y := by
  ext i hi
  rw [← BitVec.getLsbD_eq_getElem, ← BitVec.getLsbD_eq_getElem, h y i hi]
  interval_cases i <;> simp [sboxAffine]

theorem sboxAffine_fieldInverse (x : Byte) : sboxAffine (fieldInverse x) = sbox x :=
  sboxAffine_sboxAffineInverse (sbox x)

theorem fieldInverse_eq {x y : Byte} (h : gmul x y = 0x01#8) : fieldInverse x = y := by
  have hx : x ≠ 0x00#8 := by
    rintro rfl
    rw [gmul_comm, gmul_zero] at h
    exact absurd h (by decide)
  exact gmul_inverse_unique h (gmul_fieldInverse x hx)

theorem fieldInverse_zero : fieldInverse 0x00#8 = 0x00#8 := by decide

theorem fieldInverse_fieldInverse (x : Byte) : fieldInverse (fieldInverse x) = x := by
  by_cases hx : x = 0x00#8
  · rw [hx, fieldInverse_zero, fieldInverse_zero]
  · exact fieldInverse_eq (by rw [gmul_comm, gmul_fieldInverse x hx])

/-- The inverse of a byte is read off its S-box entry, and the inverse of that is the byte. -/
theorem sbox_injective : Function.Injective sbox := by
  intro x y hxy
  have hinv : fieldInverse x = fieldInverse y := congrArg sboxAffineInverse hxy
  rw [← fieldInverse_fieldInverse x, hinv, fieldInverse_fieldInverse]

end Sys2Proof.Machine

namespace Sys2Proof

open Machine

/-- Settles O36: both sides have one residue modulo the AES polynomial. -/
theorem gmulIsPolynomialMultiplicationModuloTheAesPolynomial :
    Obligations.GmulIsPolynomialMultiplicationModuloTheAesPolynomial := by
  unfold Obligations.GmulIsPolynomialMultiplicationModuloTheAesPolynomial
  intro poly hpoly a b
  obtain rfl : poly = bytePoly := funext hpoly
  have hresidue : AdjoinRoot.mk aesPoly (bytePoly a * bytePoly b) = AdjoinRoot.mk aesPoly (bytePoly (gmul a b)) :=
    (map_mul _ _ _).trans (residue_gmul a b).symm
  exact AdjoinRoot.mk_eq_mk.mp hresidue

/-- Settles O37: the laws are those of the quotient ring, and the S-box holds the inverses. -/
theorem gmulFieldLaws : Obligations.GmulFieldLaws := by
  unfold Obligations.GmulFieldLaws
  exact ⟨gmul_comm, gmul_assoc, gmul_xor,
    fun a => ⟨gmul_one a, (gmul_comm _ _).trans (gmul_one a), gmul_zero a, (gmul_comm _ _).trans (gmul_zero a)⟩,
    fun a ha => ⟨fieldInverse a, gmul_fieldInverse a ha, fun _ hc => gmul_inverse_unique (gmul_fieldInverse a ha) hc⟩⟩

/-- Settles O38: an S-box entry is the affine map of the inverse, and the map goes back. -/
theorem sboxIsABijectionAndTheAffineMapOfTheInverse : Obligations.SboxIsABijectionAndTheAffineMapOfTheInverse := by
  unfold Obligations.SboxIsABijectionAndTheAffineMapOfTheInverse
  refine ⟨sbox_injective.bijective_of_finite, sbox_ne_self, fun affine haffine => ⟨?_, fun x y hxy => ?_⟩⟩
  · rw [sboxAffine_eq haffine, ← sboxAffine_fieldInverse, fieldInverse_zero]
  · rw [sboxAffine_eq haffine, ← fieldInverse_eq hxy, sboxAffine_fieldInverse]

/-- Settles O26: no other command has this OP, and the one write of the commit is the product. -/
theorem gfMulStoresTheProduct : Obligations.GfMulStoresTheProduct := by
  unfold Obligations.GfMulStoresTheProduct
  have hword : encode .gfMul = 0x0000000A#32 := rfl
  refine ⟨fun v => ?_, otherWordsAreIllegal fun i hop _ => ?_, fun s => ⟨fun hb => ?_, fun hb => exec_busy .gfMul hb⟩⟩
  · rw [decode_eq_ok_iff, hword]
    exact ⟨fun ⟨hv, _⟩ => hv.symm, fun hv => ⟨hv.symm, rfl⟩⟩
  · cases i with
    | gfMul => exact hword
    | _ => simp [Instr.opcode] at hop
  · exact ⟨⟨0x0A#5, effectGfMul s.snapshot⟩, rfl, exec_accepted hb rfl, completesAs_of_applyCommit fun _ => rfl⟩

end Sys2Proof
end

section
/-! SUPPORT. The key schedule word by word (42_key_schedule.md R142), the words it is made of (R140, R141), the key read
back from words 4 to 7 (R145), and what one step can do to KS_VALID and RK (R146). -/

namespace Sys2Proof.Machine

/-! ## Words of the recurrence -/

/-- rot_word takes the first byte to the end (42_key_schedule.md R140). -/
theorem rotWord_append (b0 b1 b2 b3 : Byte) : rotWord (b0 ++ b1 ++ b2 ++ b3) = b1 ++ b2 ++ b3 ++ b0 := by
  simp only [rotWord, rotl32]
  ext i hi
  simp
  grind

/-- sub_word is the S-box byte by byte (42_key_schedule.md R141). -/
theorem subWord_append (b0 b1 b2 b3 : Byte) :
    subWord (b0 ++ b1 ++ b2 ++ b3) = sbox b0 ++ sbox b1 ++ sbox b2 ++ sbox b3 := by
  change subWord (wordOf b0 b1 b2 b3) = wordOf (sbox b0) (sbox b1) (sbox b2) (sbox b3)
  simp only [subWord, byteOf_wordOf]

/-- A word whose last three bytes are 0. -/
theorem wordOf_zeros (b : Byte) : wordOf b 0x00#8 0x00#8 0x00#8 = b.setWidth 32 <<< 24 := by
  simp only [wordOf]
  ext i hi
  simp
  grind

/-- `t` of 42_key_schedule.md R142, the constant as R127 and R142 write it. -/
theorem scheduleMix_eq (i : Nat) (prev : Word) :
    scheduleMix i prev = if i % 4 = 0 then subWord (rotWord prev) ^^^ (rcon (i / 4)).setWidth 32 <<< 24 else prev := by
  rw [scheduleMix, wordOf_zeros]

/-! ## The schedule's words -/

/-- The schedule begins with the key. -/
theorem rkWord_expandKey_key (k : Block) (c : Fin 4) : rkWord (expandKey k) c.val = k.get c := by
  rw [rkWord_expandKey k (by omega), getD_scheduleWords_of_le k (Nat.zero_le 40) (by omega)]
  fin_cases c <;> rfl

/-- The words already made stand in the schedule. -/
theorem getD_scheduleWords (k : Block) {n i : Nat} (hn : n ≤ 40) (hi : i < 4 + n) :
    (scheduleWords k n).getD i 0#32 = rkWord (expandKey k) i := by
  rw [rkWord_expandKey k (by omega), getD_scheduleWords_of_le k hn hi]

/-- Each further word is made from the one four back and the one before it (42_key_schedule.md R142). -/
theorem rkWord_expandKey_add_four (k : Block) {n : Nat} (hn : n < 40) :
    rkWord (expandKey k) (4 + n) =
      rkWord (expandKey k) n ^^^ scheduleMix (4 + n) (rkWord (expandKey k) (n + 3)) := by
  rw [← getD_scheduleWords k (n := n + 1) hn (by omega), getD_scheduleWords_succ, nextScheduleWord,
    length_scheduleWords, show 4 + n - 4 = n by omega, show 4 + n - 1 = n + 3 by omega,
    getD_scheduleWords k hn.le (by omega), getD_scheduleWords k hn.le (by omega)]

/-! ## The key from words 4 to 7 -/

/-- An XOR solved for its first operand. -/
theorem eq_xor_of_xor_eq {w : Nat} {a b c : BitVec w} (h : c = a ^^^ b) : a = c ^^^ b := by
  rw [h, BitVec.xor_assoc, BitVec.xor_self, BitVec.xor_zero]

/-- Words 4 to 7 made from the key's words (42_key_schedule.md R142). -/
theorem firstRoundKey_words (k : Block) :
    rkWord (expandKey k) 4 = k.w0 ^^^ (subWord (rotWord k.w3) ^^^ (rcon 1).setWidth 32 <<< 24) ∧
    rkWord (expandKey k) 5 = k.w1 ^^^ rkWord (expandKey k) 4 ∧
    rkWord (expandKey k) 6 = k.w2 ^^^ rkWord (expandKey k) 5 ∧
    rkWord (expandKey k) 7 = k.w3 ^^^ rkWord (expandKey k) 6 := by
  have h0 : rkWord (expandKey k) 0 = k.w0 := rkWord_expandKey_key k 0
  have h1 : rkWord (expandKey k) 1 = k.w1 := rkWord_expandKey_key k 1
  have h2 : rkWord (expandKey k) 2 = k.w2 := rkWord_expandKey_key k 2
  have h3 : rkWord (expandKey k) 3 = k.w3 := rkWord_expandKey_key k 3
  have hnext {n : Nat} (hn : n < 40) := rkWord_expandKey_add_four k hn
  simp only [scheduleMix_eq] at hnext
  rw [← h0, ← h1, ← h2, ← h3]
  exact ⟨hnext (n := 0) (by decide), hnext (n := 1) (by decide), hnext (n := 2) (by decide),
    hnext (n := 3) (by decide)⟩

/-- The key read back: each of words 4 to 7 solved for its key word (42_key_schedule.md R145). -/
theorem key_of_firstRoundKey (k : Block) :
    k.w3 = rkWord (expandKey k) 7 ^^^ rkWord (expandKey k) 6 ∧
    k.w2 = rkWord (expandKey k) 6 ^^^ rkWord (expandKey k) 5 ∧
    k.w1 = rkWord (expandKey k) 5 ^^^ rkWord (expandKey k) 4 ∧
    k.w0 = rkWord (expandKey k) 4 ^^^ subWord (rotWord k.w3) ^^^ (rcon 1).setWidth 32 <<< 24 := by
  obtain ⟨h4, h5, h6, h7⟩ := firstRoundKey_words k
  exact ⟨eq_xor_of_xor_eq h7, eq_xor_of_xor_eq h6, eq_xor_of_xor_eq h5,
    (eq_xor_of_xor_eq h4).trans (BitVec.xor_assoc _ _ _).symm⟩

/-- Keys whose schedules agree in words 4 to 7 are equal: the last word of the key first, which word 0 is made with
(42_key_schedule.md R145). -/
theorem key_eq_of_firstRoundKey_eq {k k' : Block}
    (h : ∀ i : Nat, 4 ≤ i → i ≤ 7 → rkWord (expandKey k) i = rkWord (expandKey k') i) : k = k' := by
  obtain ⟨h3, h2, h1, h0⟩ := key_of_firstRoundKey k
  rw [h 4 (by decide) (by decide)] at h0 h1
  rw [h 5 (by decide) (by decide)] at h1 h2
  rw [h 6 (by decide) (by decide)] at h2 h3
  rw [h 7 (by decide) (by decide)] at h3
  obtain ⟨h3', h2', h1', h0'⟩ := key_of_firstRoundKey k'
  have hw3 : k.w3 = k'.w3 := h3.trans h3'.symm
  rw [hw3] at h0
  apply Block.ext_get
  intro c
  fin_cases c
  exacts [h0.trans h0'.symm, h1.trans h1'.symm, h2.trans h2'.symm, hw3]

/-! ## The schedule across a step -/

/-- KS_VALID and RK are as they were. -/
def SameSchedule (s t : State) : Prop := t.ksValid = s.ksValid ∧ t.rk = s.rk

/-- EXPAND_KEY completes: its commit stores all of RK and makes the schedule valid (42_key_schedule.md R144). -/
def ScheduleStored (s t : State) : Prop :=
  s.ksValid = false ∧ ∃ p, s.pending = some p ∧ p.op = 0x01#5 ∧ p.commit = scheduleWrites t.rk ∧ t.pending = none

/-- EXPAND_KEY is accepted: the schedule is given up at the CMD write (42_key_schedule.md R144). -/
def ScheduleGivenUp (s t : State) : Prop :=
  t.ksValid = false ∧ ∃ p v es, t.pending = some p ∧ p.op = 0x01#5 ∧ s.events = wr .cmd v :: es

/-- A legal commit is a whole schedule, of EXPAND_KEY, or leaves KS_VALID and RK alone (30_encoding.md R86). -/
theorem CommitCase.schedule_cases {op : BitVec 5} {ws : List RegWrite} (h : CommitCase op ws) (s : State) :
    (op = 0x01#5 ∧ ∃ w, ws = scheduleWrites w) ∨ SameSchedule s (applyCommit ws s) := by
  cases h with
  | schedule k => exact .inl ⟨rfl, _, rfl⟩
  | nothing | stateAndDout _ | state _ _ _ | dout _ _ _ | gfRes _ => exact .inr (by simp [SameSchedule])

theorem complete_schedule {s : State} (hinv : Inv s) {p : Pending} (hp : s.pending = some p) :
    SameSchedule s (complete p s) ∨ ScheduleStored s (complete p s) := by
  obtain ⟨hop, w, hw⟩ | hsame := (legalCommit_cases (hinv.commitLegal p hp)).schedule_cases s
  · have hrk : (complete p s).rk = w := by rw [complete_eq, hw, applyCommit_scheduleWrites]
    exact .inr ⟨hinv.expandingNotValid p hp hop, p, hp, hop, by rw [hrk, hw], complete_pending p s⟩
  · exact .inl hsame

/-- The core's own step resets every register, keeps the schedule, or stores the one of EXPAND_KEY. -/
theorem internalEdge_schedule {s : State} (hinv : Inv s) :
    RegistersReset (internalEdge s) ∨ SameSchedule s (internalEdge s) ∨ ScheduleStored s (internalEdge s) := by
  obtain ⟨_, heq⟩ | ⟨_, _, heq⟩ | ⟨_, p, hp, heq⟩ := internalEdge_cases s <;> rw [heq]
  · exact .inl (registersReset_doReset s)
  · exact .inr (.inl ⟨rfl, rfl⟩)
  · exact .inr (complete_schedule hinv hp)

/-- The four things a step can do to KS_VALID and RK: reset, keep them, store a schedule, and give one up. -/
theorem step_schedule {s t : State} (hinv : Inv s) (h : step s = .next t) :
    RegistersReset t ∨ SameSchedule s t ∨ ScheduleStored s t ∨ ScheduleGivenUp s t := by
  cases step_cases h with
  | noEvent => exact (internalEdge_schedule hinv).imp_right (.imp_right .inl)
  | completion es => exact (internalEdge_schedule (hinv.withEvents es)).imp_right (.imp_right .inl)
  | rstLow => exact .inl (registersReset_hardwareReset _)
  | softReset => exact .inl (registersReset_doReset _)
  | accepted a v es he ha _ _ i =>
    cases i with
    | expandKey len => exact .inr (.inr (.inr ⟨rfl, _, v, es, rfl, rfl, by rw [he, bus_write_eq_wr v ha]⟩))
    | _ => exact .inr (.inl ⟨rfl, rfl⟩)
  | overrun | failed => exact .inr (.inl (by simp [SameSchedule, failAtOnce]))
  | rstHigh | answered | clearedErrors | irqEn | irqStatus | gfOps | key | din => exact .inr (.inl ⟨rfl, rfl⟩)

end Sys2Proof.Machine

namespace Sys2Proof

open Machine

/-- The one word of a well-formed command (30_encoding.md R91). -/
theorem decode_eq_ok_iff_of_wf {v : Word} {i : Instr} (h : WellFormed i) : decode v = .ok i ↔ v = encode i :=
  decode_eq_ok_iff.trans ⟨fun ⟨hv, _⟩ => hv.symm, fun hv => ⟨hv.symm, h⟩⟩

theorem encode_expandKey (len : BitVec 5) : encode (.expandKey len) = len.setWidth 32 <<< 16 ||| 0x01#32 :=
  commandWord_len len 0x01#5

/-- Settles O17: the commit is the schedule of the KEY of acceptance, and the check is on LEN alone. -/
theorem expandKeyStoresTheScheduleOfKey : Obligations.ExpandKeyStoresTheScheduleOfKey := by
  unfold Obligations.ExpandKeyStoresTheScheduleOfKey
  refine ⟨fun v len => ?_, otherWordsAreIllegal fun i hop _ => ?_, fun s => ⟨fun hb => ?_, fun len hb hlen => ?_,
    fun len hb => exec_busy (.expandKey len) hb⟩⟩
  · rw [decode_eq_ok_iff_of_wf rfl, encode_expandKey]
  · cases i with
    | expandKey len => exact ⟨len, encode_expandKey len⟩
    | _ => simp [Instr.opcode] at hop
  · exact ⟨⟨0x01#5, effectExpandKey s.snapshot⟩, rfl, exec_accepted hb (checkExpandKey_sixteen s.snapshot),
      completesAs_of_applyCommit (applyCommit_scheduleWrites _)⟩
  · exact exec_failed (i := .expandKey len) hb (checkExpandKey_bad hlen s.snapshot)

/-- Settles O34: the words as they are appended, and rot_word and sub_word byte by byte. -/
theorem keyScheduleFollowsItsRecurrence : Obligations.KeyScheduleFollowsItsRecurrence := by
  unfold Obligations.KeyScheduleFollowsItsRecurrence
  refine ⟨fun k => ⟨rkWord_expandKey_key k, fun i hlo hhi => ?_⟩, rotWord_append, fun _ => rfl, subWord_append,
    rfl, rfl, rfl, rfl, rfl, rfl, rfl, rfl, rfl, rfl⟩
  obtain ⟨n, rfl⟩ := Nat.exists_eq_add_of_le hlo
  rw [rkWord_expandKey_add_four k (by omega), scheduleMix_eq, show 4 + n - 4 = n by omega,
    show 4 + n - 1 = n + 3 by omega]

/-- Settles O35: words 4 to 7 give the key back. -/
theorem distinctKeysGiveDistinctSchedules : Obligations.DistinctKeysGiveDistinctSchedules := by
  unfold Obligations.DistinctKeysGiveDistinctSchedules
  exact ⟨fun k k' h => key_eq_of_firstRoundKey_eq fun i _ _ => by rw [h], fun _ _ => key_eq_of_firstRoundKey_eq,
    key_of_firstRoundKey⟩

/-- Settles O56, by the four things a step can do to KS_VALID and RK. -/
theorem scheduleChangesOnlyByExpandKeyOrReset : Obligations.ScheduleChangesOnlyByExpandKeyOrReset := by
  unfold Obligations.ScheduleChangesOnlyByExpandKeyOrReset
  intro s t hinv hs
  obtain hreset | ⟨hks, hrk⟩ | ⟨hinvalid, hstored⟩ | ⟨hgone, haccepted⟩ := step_schedule hinv hs
  · exact ⟨fun _ => by simp [hreset.ksValid], fun _ _ => .inl hreset, fun _ => by simp [hreset.ksValid]⟩
  · exact ⟨fun _ _ => hrk, fun ht hf => by simp [hks, ht] at hf, fun hf ht => by simp [hks, hf] at ht⟩
  · exact ⟨fun ht => by simp [hinvalid] at ht, fun ht => by simp [hinvalid] at ht, fun _ _ => hstored⟩
  · exact ⟨fun _ => by simp [hgone], fun _ _ => .inr haccepted, fun _ => by simp [hgone]⟩

end Sys2Proof
end

section
/-! SUPPORT. The commands of the round transform engine (43_round_transform.md R165 to R171) by the operand they take
(30_encoding.md R83, R91): what the words of one form are, and what a command of that form does while idle. Then the
transforms byte by byte and position by position (R160 to R163), and their laws (R172). -/

namespace Sys2Proof

open Machine

/-! ## The three operand forms -/

section
variable {i : Instr} {op : BitVec 5}

/-- A command without an operand has no field but its opcode, no check and no side effect. -/
theorem noOperand_rules (h : operandForm i.opcode = some .noOperand) :
    i.rndOf = 0#4 ∧ i.lenOf = 0#5 ∧ WellFormed i ∧ (∀ snap, checkOf i snap = none) ∧ ∀ s, acceptSideEffect i s = s := by
  cases i with
  | nop | storeState | subBytes | shiftRows | mixColumns | gfMul =>
    exact ⟨rfl, rfl, rfl, fun _ => rfl, fun _ => rfl⟩
  | expandKey _ | encryptBlock _ | loadState _ | addRoundKey _ | round _ | pad _ => cases h

/-- A command with a length has no round index, and every length is well formed. -/
theorem lenOperand_rules (h : operandForm i.opcode = some .lenOperand) : i.rndOf = 0#4 ∧ WellFormed i := by
  cases i with
  | expandKey _ | encryptBlock _ | loadState _ | pad _ => exact ⟨rfl, rfl⟩
  | nop | storeState | subBytes | shiftRows | mixColumns | addRoundKey _ | round _ | gfMul => cases h

/-- A command with a round index is well formed where the index is one of 0..10, and then needs a valid schedule. -/
theorem rndOperand_rules (h : operandForm i.opcode = some .rndOperand) :
    i.lenOf = 0#5 ∧ (WellFormed i ↔ i.rndOf.toNat ≤ 10) ∧ (∀ snap, checkOf i snap = checkRoundIndex i.rndOf snap) ∧
      ∀ s, acceptSideEffect i s = s := by
  cases i with
  | addRoundKey _ | round _ => exact ⟨rfl, decide_eq_true_iff, fun _ => rfl, fun _ => rfl⟩
  | nop | expandKey _ | encryptBlock _ | loadState _ | storeState | subBytes | shiftRows | mixColumns | gfMul | pad _ =>
    cases h

theorem encode_of_noOperand (h : operandForm i.opcode = some .noOperand) : encode i = i.opcode.setWidth 32 := by
  obtain ⟨hrnd, hlen, -⟩ := noOperand_rules h
  rw [encode, hrnd, hlen, commandWord_plain]

theorem encode_of_lenOperand (h : operandForm i.opcode = some .lenOperand) :
    encode i = i.lenOf.setWidth 32 <<< 16 ||| i.opcode.setWidth 32 := by
  obtain ⟨hrnd, -⟩ := lenOperand_rules h
  rw [encode, hrnd, commandWord_len]

theorem encode_of_rndOperand (h : operandForm i.opcode = some .rndOperand) :
    encode i = i.rndOf.setWidth 32 <<< 8 ||| i.opcode.setWidth 32 := by
  obtain ⟨hlen, -⟩ := rndOperand_rules h
  rw [encode, hlen, commandWord_rnd]

theorem decode_eq_ok_iff_of_noOperand (h : operandForm i.opcode = some .noOperand) {v : Word} :
    decode v = .ok i ↔ v = i.opcode.setWidth 32 := by
  obtain ⟨-, -, hwf, -⟩ := noOperand_rules h
  rw [decode_eq_ok_iff_of_wf hwf, encode_of_noOperand h]

theorem decode_eq_ok_iff_of_lenOperand (h : operandForm i.opcode = some .lenOperand) {v : Word} :
    decode v = .ok i ↔ v = i.lenOf.setWidth 32 <<< 16 ||| i.opcode.setWidth 32 := by
  obtain ⟨-, hwf⟩ := lenOperand_rules h
  rw [decode_eq_ok_iff_of_wf hwf, encode_of_lenOperand h]

theorem decode_eq_ok_iff_of_rndOperand (h : operandForm i.opcode = some .rndOperand) {v : Word} :
    decode v = .ok i ↔ i.rndOf.toNat ≤ 10 ∧ v = i.rndOf.setWidth 32 <<< 8 ||| i.opcode.setWidth 32 := by
  obtain ⟨-, hwf, -⟩ := rndOperand_rules h
  rw [decode_eq_ok_iff, encode_of_rndOperand h, hwf, and_comm, eq_comm]

/-! The words that are not illegal among those with one OP (30_encoding.md R83), per form. -/

theorem otherWordsAreIllegal_noOperand (h : operandForm op = some .noOperand) :
    OtherWordsAreIllegal op fun v => v = op.setWidth 32 :=
  otherWordsAreIllegal fun _ hop _ => by subst hop; exact encode_of_noOperand h

theorem otherWordsAreIllegal_lenOperand (h : operandForm op = some .lenOperand) :
    OtherWordsAreIllegal op fun v => ∃ len : BitVec 5, v = len.setWidth 32 <<< 16 ||| op.setWidth 32 :=
  otherWordsAreIllegal fun i hop _ => by subst hop; exact ⟨i.lenOf, encode_of_lenOperand h⟩

theorem otherWordsAreIllegal_rndOperand (h : operandForm op = some .rndOperand) :
    OtherWordsAreIllegal op fun v => ∃ r : BitVec 4, r.toNat ≤ 10 ∧ v = r.setWidth 32 <<< 8 ||| op.setWidth 32 :=
  otherWordsAreIllegal fun i hop hwf => by
    subst hop
    obtain ⟨-, hiff, -⟩ := rndOperand_rules h
    exact ⟨i.rndOf, hiff.mp hwf, encode_of_rndOperand h⟩

/-! ## What a command does -/

/-- While idle, a command whose check passes and whose acceptance has no side effect makes its commit pending and
changes nothing else (40_command_issue.md R102, R103). -/
theorem exec_idle_completesAs {s : State} {w : State → State} (hb : s.busy = false)
    (hcheck : checkOf i s.snapshot = none) (hside : acceptSideEffect i s = s)
    (hcommit : ∀ u, applyCommit (effectOf i s.snapshot) u = w u) :
    ∃ p : Pending, p.op = i.opcode ∧ exec i s = .next { s with busy := true, pending := some p } ∧ CompletesAs p w := by
  have hexec := exec_accepted hb hcheck
  rw [hside] at hexec
  exact ⟨⟨i.opcode, effectOf i s.snapshot⟩, rfl, hexec, completesAs_of_applyCommit hcommit⟩

/-- The whole rule of a command without an operand: its one word, its issue, and its completion, which makes the writes
`w s` for the state `s` of acceptance. -/
theorem noOperand_command (h : operandForm i.opcode = some .noOperand) (w : State → State → State)
    (hcommit : ∀ s u, applyCommit (effectOf i s.snapshot) u = w s u) :
    (∀ v : Word, decode v = .ok i ↔ v = i.opcode.setWidth 32) ∧
    OtherWordsAreIllegal i.opcode (fun v => v = i.opcode.setWidth 32) ∧
    ∀ s : State,
      (s.busy = false → ∃ p : Pending, p.op = i.opcode ∧
        exec i s = .next { s with busy := true, pending := some p } ∧ CompletesAs p (w s)) ∧
      (s.busy = true → exec i s = .next (raiseCmdError .commandOverrun i.opcode s)) := by
  obtain ⟨-, -, -, hcheck, hside⟩ := noOperand_rules h
  exact ⟨fun _ => decode_eq_ok_iff_of_noOperand h, otherWordsAreIllegal_noOperand h,
    fun s => ⟨fun hb => exec_idle_completesAs hb (hcheck _) (hside s) (hcommit s), exec_busy i⟩⟩

/-- What a command with a round index of 0..10 does: accepted with a valid schedule, else SCHEDULE_NOT_VALID, and
overrun while busy. -/
theorem exec_rndOperand (h : operandForm i.opcode = some .rndOperand) (hr : i.rndOf.toNat ≤ 10) {s : State}
    {w : State → State} (hcommit : ∀ u, applyCommit (effectOf i s.snapshot) u = w u) :
    (s.busy = false → s.ksValid = true → ∃ p : Pending, p.op = i.opcode ∧
      exec i s = .next { s with busy := true, pending := some p } ∧ CompletesAs p w) ∧
    (s.busy = false → s.ksValid = false → exec i s = .next (failAtOnce .scheduleNotValid i.opcode s)) ∧
    (s.busy = true → exec i s = .next (raiseCmdError .commandOverrun i.opcode s)) := by
  obtain ⟨-, -, hcheck, hside⟩ := rndOperand_rules h
  have hvalid : checkOf i s.snapshot = if s.ksValid then none else some .scheduleNotValid :=
    (hcheck s.snapshot).trans (checkRoundIndex_ok hr _)
  refine ⟨fun hb hk => ?_, fun hb hk => ?_, exec_busy i⟩
  · exact exec_idle_completesAs hb (by rw [hvalid, if_pos hk]) (hside s) hcommit
  · exact exec_failed hb (by rw [hvalid, if_neg (Bool.eq_false_iff.mp hk)])

end

/-- Settles O19: the check is on LEN alone, and the commit puts the DIN of acceptance in STATE. -/
theorem loadStateCopiesDinToState : Obligations.LoadStateCopiesDinToState := by
  unfold Obligations.LoadStateCopiesDinToState
  refine ⟨fun v len => decode_eq_ok_iff_of_lenOperand (i := .loadState len) rfl,
    otherWordsAreIllegal_lenOperand rfl, fun s => ⟨fun hb => ?_, fun len hb hlen => ?_, fun len hb => ?_⟩⟩
  · exact exec_idle_completesAs (i := .loadState 16#5) hb (checkLoadState_sixteen s.snapshot) rfl
      (applyCommit_stateWrites s.din)
  · exact exec_failed (i := .loadState len) hb (checkLoadState_bad hlen s.snapshot)
  · exact exec_busy (.loadState len) hb

/-- Settles O20: a command without an operand, whose commit puts the STATE of acceptance in DOUT. -/
theorem storeStateCopiesStateToDout : Obligations.StoreStateCopiesStateToDout := by
  unfold Obligations.StoreStateCopiesStateToDout
  exact noOperand_command (i := .storeState) rfl (fun s u => { u with dout := s.state })
    fun s => applyCommit_doutWrites s.state

/-- Settles O21: a command without an operand, whose commit is `put(sub_bytes(S))`. -/
theorem subBytesCommandSubstitutesState : Obligations.SubBytesCommandSubstitutesState := by
  unfold Obligations.SubBytesCommandSubstitutesState
  exact noOperand_command (i := .subBytes) rfl (fun s u => { u with state := subBytes s.state })
    fun s => applyCommit_stateWrites (subBytes s.state)

/-- Settles O22: a command without an operand, whose commit is `put(shift_rows(S))`. -/
theorem shiftRowsCommandRotatesTheRows : Obligations.ShiftRowsCommandRotatesTheRows := by
  unfold Obligations.ShiftRowsCommandRotatesTheRows
  exact noOperand_command (i := .shiftRows) rfl (fun s u => { u with state := shiftRows s.state })
    fun s => applyCommit_stateWrites (shiftRows s.state)

/-- Settles O23: a command without an operand, whose commit is `put(mix_columns(S))`. -/
theorem mixColumnsCommandMixesTheColumns : Obligations.MixColumnsCommandMixesTheColumns := by
  unfold Obligations.MixColumnsCommandMixesTheColumns
  exact noOperand_command (i := .mixColumns) rfl (fun s u => { u with state := mixColumns s.state })
    fun s => applyCommit_stateWrites (mixColumns s.state)

/-- Settles O24: a command with a round index, whose commit is `put(add_round_key(S, RK, r))`. -/
theorem addRoundKeyCommandXorsTheRoundKey : Obligations.AddRoundKeyCommandXorsTheRoundKey := by
  unfold Obligations.AddRoundKeyCommandXorsTheRoundKey
  exact ⟨fun v r => decode_eq_ok_iff_of_rndOperand (i := .addRoundKey r) rfl, otherWordsAreIllegal_rndOperand rfl,
    fun s r hr => exec_rndOperand (i := .addRoundKey r) rfl hr
      (applyCommit_stateWrites (addRoundKey s.state s.rk r.toNat))⟩

/-- Settles O25: a command with a round index, whose commit is `put(round_step(S, RK, r))`. -/
theorem roundCommandRunsOneRound : Obligations.RoundCommandRunsOneRound := by
  unfold Obligations.RoundCommandRunsOneRound
  exact ⟨fun v r => decode_eq_ok_iff_of_rndOperand (i := .round r) rfl, otherWordsAreIllegal_rndOperand rfl,
    fun s r hr => exec_rndOperand (i := .round r) rfl hr (applyCommit_stateWrites (roundStep s.state s.rk r.toNat))⟩

end Sys2Proof

namespace Sys2Proof.Machine

/-! ## The transforms byte by byte -/

@[simp] theorem byte_subBytes (s : Block) (r c : Fin 4) : (subBytes s).byte r c = sbox (s.byte r c) :=
  Block.byte_ofBytes _ r c

@[simp] theorem byte_shiftRows (s : Block) (r c : Fin 4) : (shiftRows s).byte r c = s.byte r (c + r) :=
  Block.byte_ofBytes _ r c

theorem byte_mixColumns (s : Block) (i c : Fin 4) : (mixColumns s).byte i c =
    gmul (mixCoeff i 0) (s.byte 0 c) ^^^ gmul (mixCoeff i 1) (s.byte 1 c) ^^^ gmul (mixCoeff i 2) (s.byte 2 c) ^^^
      gmul (mixCoeff i 3) (s.byte 3 c) :=
  Block.byte_ofBytes _ i c

/-- Byte `4c + r` comes from position `4((c + r) mod 4) + r`, which is `5(4c + r)` modulo 16 (43_round_transform.md
R161). -/
theorem unpack_shiftRows (s : Block) (i : Fin 16) : (shiftRows s).unpack i = s.unpack (5 * i) := by
  obtain ⟨r, c, hi⟩ := exists_row_column i
  have hsource : (5 * i).val = 4 * (c + r).val + r.val := by rw [Fin.val_mul, Fin.val_add]; omega
  rw [Block.unpack_eq_byte _ hi, byte_shiftRows, Block.unpack_eq_byte s hsource]

theorem one_gmul (a : Byte) : gmul 0x01#8 a = a := (gmul_comm _ a).trans (gmul_one a)

theorem byteOf_xor (w v : Word) (r : Fin 4) : byteOf (w ^^^ v) r = byteOf w r ^^^ byteOf v r := by
  simp only [byteOf]
  ext i hi
  simp

/-- Schedule word `i` by its place in RK (10_state.md R37). -/
theorem rkWord_eq_getElem (rk : Vector Word 44) (i : Fin 44) : rkWord rk i.val = rk[i] := by
  simp [rkWord, List.getD]

/-- Column `c` of round key `r` is schedule word `4r + c` (42_key_schedule.md R143). -/
theorem get_roundKey (rk : Vector Word 44) {r : Nat} {c : Fin 4} {i : Fin 44} (hi : i.val = 4 * r + c.val) :
    (roundKey rk r).get c = rk[i] := by
  rw [roundKey, Block.get_ofFn, ← hi, rkWord_eq_getElem]

/-! ## Laws of the transforms -/

/-- Four rotations of row `r` by `r` columns are `4r` columns, none modulo 4. -/
theorem shiftRows_four_times (s : Block) : shiftRows (shiftRows (shiftRows (shiftRows s))) = s := by
  have hround : ∀ r c : Fin 4, c + r + r + r + r = c := by decide
  exact Block.ext_byte fun r c => by simp only [byte_shiftRows, hround]

theorem addRoundKey_addRoundKey (s : Block) (rk : Vector Word 44) (r : Nat) :
    addRoundKey (addRoundKey s rk r) rk r = s :=
  Block.ext_get fun c => by rw [addRoundKey_get, addRoundKey_get, BitVec.xor_assoc, BitVec.xor_self, BitVec.xor_zero]

/-- The S-box is a bijection of bytes, so its use in every place is one of states. -/
theorem subBytes_bijective : Function.Bijective subBytes := by
  constructor
  · intro s t hst
    exact Block.ext_byte fun r c => sbox_injective (by rw [← byte_subBytes, ← byte_subBytes, hst])
  · intro t
    obtain ⟨inverse, hinverse⟩ := sbox_injective.bijective_of_finite.surjective.hasRightInverse
    refine ⟨Block.ofBytes fun r c => inverse (t.byte r c), Block.ext_byte fun r c => ?_⟩
    rw [byte_subBytes, Block.byte_ofBytes, hinverse]

theorem shiftRows_subBytes (s : Block) : shiftRows (subBytes s) = subBytes (shiftRows s) :=
  Block.ext_byte fun r c => by simp only [byte_shiftRows, byte_subBytes]

/-- Each product distributes over XOR, and the XORs of the two columns are taken apart. -/
theorem mixColumns_xor (s t : Block) : mixColumns (Block.ofFn fun c => s.get c ^^^ t.get c) =
    Block.ofFn fun c => (mixColumns s).get c ^^^ (mixColumns t).get c :=
  Block.ext_byte fun i c => by
    simp only [byte_xor, byte_mixColumns, gmul_xor]
    ac_rfl

end Sys2Proof.Machine

namespace Sys2Proof

open Machine

/-- Settles O29: byte by byte, and by the source position `5i` of byte `i`. -/
theorem subBytesAndShiftRowsActOnBytes : Obligations.SubBytesAndShiftRowsActOnBytes := by
  unfold Obligations.SubBytesAndShiftRowsActOnBytes
  refine ⟨byte_subBytes, fun s r c c' hc => ?_, fun s => ?_⟩
  · have hsum : c' = c + r := Fin.ext (hc.trans (Fin.val_add c r).symm)
    rw [byte_shiftRows, hsum]
  · rw [funext (unpack_shiftRows s)]
    rfl

/-- Settles O30: the entries of M are read off its table, and a factor 1 leaves the byte. -/
theorem mixColumnsMultipliesByTheMatrix : Obligations.MixColumnsMultipliesByTheMatrix := by
  unfold Obligations.MixColumnsMultipliesByTheMatrix
  refine ⟨byte_mixColumns, fun s c => ?_⟩
  simp [byte_mixColumns, mixCoeff, mixTable, one_gmul]

/-- Settles O31: column `c` of round key `r` is word `4r + c`, and XOR goes byte by byte. -/
theorem addRoundKeyXorsScheduleWords : Obligations.AddRoundKeyXorsScheduleWords := by
  unfold Obligations.AddRoundKeyXorsScheduleWords
  intro s rk r _ c i hi
  have hcolumn : (addRoundKey s rk r).get c = s.get c ^^^ rk[i] := by rw [addRoundKey_get, get_roundKey rk hi]
  exact ⟨hcolumn, fun row => by rw [Block.byte, hcolumn, byteOf_xor]; rfl⟩

/-- Settles O33: each law is its own lemma above. -/
theorem roundTransformLaws : Obligations.RoundTransformLaws := by
  unfold Obligations.RoundTransformLaws
  exact ⟨shiftRows_four_times, addRoundKey_addRoundKey, subBytes_bijective, shiftRows_subBytes, mixColumns_xor⟩

end Sys2Proof
end

section
/-! SUPPORT. The block cipher as round steps (44_block_cipher.md R200; 43_round_transform.md R164), ENCRYPT_BLOCK
(R201), and runs of commands that each complete before the next is issued (R202): what a command leaves in STATE and
DOUT, one such command, and a sequence of them. -/

namespace Sys2Proof.Machine

/-! ## Round steps -/

/-- Round step 0 adds the key alone (43_round_transform.md R164). -/
theorem roundStep_zero (x : Block) (w : Vector Word 44) : roundStep x w 0 = addRoundKey x w 0 := rfl

/-- Round step 10 omits MixColumns (43_round_transform.md R164). -/
theorem roundStep_ten (x : Block) (w : Vector Word 44) :
    roundStep x w 10 = addRoundKey (shiftRows (subBytes x)) w 10 := rfl

/-- Round steps 1 to 9 are full rounds (43_round_transform.md R164). -/
theorem roundStep_eq_fullRound {r : Nat} (hlo : 1 ≤ r) (hhi : r ≤ 9) (x : Block) (w : Vector Word 44) :
    roundStep x w r = fullRound w x r := by
  rw [roundStep, if_neg (by omega), if_neg (by omega), fullRound]

/-- The nine turns of step 3 of 44_block_cipher.md R200 are round steps 1 to 9. -/
theorem foldl_roundStep_eq_foldl_fullRound (x : Block) (w : Vector Word 44) :
    [1, 2, 3, 4, 5, 6, 7, 8, 9].foldl (fun y r => roundStep y w r) x =
      [1, 2, 3, 4, 5, 6, 7, 8, 9].foldl (fullRound w) x := by
  have hfull : ∀ r ∈ [1, 2, 3, 4, 5, 6, 7, 8, 9], 1 ≤ r ∧ r ≤ 9 := by decide
  exact List.foldl_ext _ _ x fun y r hr => roundStep_eq_fullRound (hfull r hr).1 (hfull r hr).2 y w

theorem cipher_eq_foldl_roundStep (x : Block) (w : Vector Word 44) :
    cipher x w = [0, 1, 2, 3, 4, 5, 6, 7, 8, 9, 10].foldl (fun y r => roundStep y w r) x := by
  have hlast : [1, 2, 3, 4, 5, 6, 7, 8, 9, 10] = [1, 2, 3, 4, 5, 6, 7, 8, 9] ++ [10] := rfl
  rw [List.foldl_cons, roundStep_zero, hlast, List.foldl_append, foldl_roundStep_eq_foldl_fullRound, List.foldl_cons,
    roundStep_ten, List.foldl_nil, cipher]

/-! ## Commands on STATE and DOUT -/

/-- The commands of 44_block_cipher.md R202, with the operands they are accepted with under a valid schedule. -/
def cipherCommand : Instr → Bool
  | .encryptBlock len | .loadState len => decide (len = 16#5)
  | .addRoundKey r | .round r => roundIndexOk r
  | .storeState | .subBytes | .shiftRows | .mixColumns => true
  | .nop | .expandKey _ | .gfMul | .pad _ => false

/-- STATE and DOUT after the completion of a `cipherCommand` that was accepted with them at `b`, DIN at `din` and RK at
`rk` (30_encoding.md R86, "writes at completion"; `cipherCommand_applyCommit`). Not meant for the other commands. -/
def blocksAfter (din : Block) (rk : Vector Word 44) (b : Block × Block) : Instr → Block × Block
  | .encryptBlock _ => (cipher din rk, cipher din rk)
  | .loadState _ => (din, b.2)
  | .storeState => (b.1, b.1)
  | .subBytes => (subBytes b.1, b.2)
  | .shiftRows => (shiftRows b.1, b.2)
  | .mixColumns => (mixColumns b.1, b.2)
  | .addRoundKey r => (addRoundKey b.1 rk r.toNat, b.2)
  | .round r => (roundStep b.1 rk r.toNat, b.2)
  | .nop | .expandKey _ | .gfMul | .pad _ => b

section
variable {i : Instr} (h : cipherCommand i = true)
include h

theorem cipherCommand_wellFormed : WellFormed i := by
  cases i with
  | addRoundKey _ | round _ => exact h
  | _ => rfl

theorem cipherCommand_checkOf {snap : Snapshot} (hk : snap.ksValid = true) : checkOf i snap = none := by
  cases i with
  | encryptBlock len =>
    obtain rfl : len = 16#5 := of_decide_eq_true h
    exact (checkEncryptBlock_sixteen snap).trans (if_pos hk)
  | loadState len =>
    obtain rfl : len = 16#5 := of_decide_eq_true h
    exact checkLoadState_sixteen snap
  | addRoundKey r | round r => exact (checkRoundIndex_ok (of_decide_eq_true h) snap).trans (if_pos hk)
  | storeState | subBytes | shiftRows | mixColumns => rfl
  | nop | expandKey _ | gfMul | pad _ => cases h

theorem cipherCommand_acceptSideEffect (s : State) : acceptSideEffect i s = s := by
  cases i with
  | expandKey _ => cases h
  | _ => rfl

/-- These commands write STATE and DOUT only. -/
theorem cipherCommand_applyCommit {s u : State} (hstate : u.state = s.state) (hdout : u.dout = s.dout) :
    applyCommit (effectOf i s.snapshot) u =
      { u with
        state := (blocksAfter s.din s.rk (s.state, s.dout) i).1
        dout := (blocksAfter s.din s.rk (s.state, s.dout) i).2 } := by
  cases i with
  | nop | expandKey _ | gfMul | pad _ => cases h
  | encryptBlock _ => exact applyCommit_stateAndDout _ u
  | storeState => exact (applyCommit_doutWrites s.state u).trans (by rw [← hstate]; rfl)
  | loadState _ | subBytes | shiftRows | mixColumns | addRoundKey _ | round _ =>
    exact (applyCommit_stateWrites _ u).trans (by rw [← hdout]; rfl)

end

/-! ## Runs of commands -/

/-- `s` idle after commands that have left the pair `b` in STATE and DOUT, with `es` still to come. -/
def settled (s : State) (b : Block × Block) (es : List Event) : State :=
  { s with
    state := b.1
    dout := b.2
    busy := false
    pending := none
    irqStatus := ⟨true, s.irqStatus.err⟩
    events := es
    response := some (.writeDone false) }

section
variable {s : State} {i : Instr} (hr : s.rstN = true) (hb : s.busy = false) (hk : s.ksValid = true)
include hr hb hk

/-- The CMD write and the completion right after it. -/
theorem core_run_cipherCommand (h : cipherCommand i = true) (es : List Event) :
    Sys2Proof.core.run 2 { s with events := cmd i :: .completion :: es } =
      .next (settled s (blocksAfter s.din s.rk (s.state, s.dout) i) es) := by
  have haccept := exec_accepted (s := s.served (.completion :: es) (.writeDone false)) hb (cipherCommand_checkOf h hk)
  rw [cipherCommand_acceptSideEffect h] at haccept
  have hwrite := (step_wr (s := { s with events := cmd i :: .completion :: es }) rfl hr).trans
    ((cmdWrite_of_decode (decode_encode (cipherCommand_wellFormed h)) _).trans haccept)
  have hcomplete := completesAs_of_applyCommit (fun _ => rfl)
    (accept i.opcode (effectOf i s.snapshot) (s.served (.completion :: es) (.writeDone false))) es hr rfl rfl
  rw [cipherCommand_applyCommit h] at hcomplete
  · exact (core_run_next hwrite 1).trans (core_run_one hcomplete)
  · rfl
  · rfl

/-- Commands one after another: the first settles the core, and each next one settles it again. -/
theorem core_run_commandSequence {is : List Instr} (hne : is ≠ []) (h : ∀ i ∈ is, cipherCommand i = true)
    (es : List Event) :
    Sys2Proof.core.run (commandSequence is).length { s with events := commandSequence is ++ es } =
      .next (settled s (is.foldl (blocksAfter s.din s.rk) (s.state, s.dout)) es) := by
  induction is generalizing s with
  | nil => exact absurd rfl hne
  | cons i is ih =>
    rw [List.forall_mem_cons] at h
    obtain ⟨hi, his⟩ := h
    have hfirst := core_run_cipherCommand hr hb hk hi (commandSequence is ++ es)
    cases is with
    | nil => exact hfirst
    | cons j js =>
      have hrest := ih (s := settled s (blocksAfter s.din s.rk (s.state, s.dout) i) []) hr rfl hk
        (List.cons_ne_nil j js) his
      have hlength : (commandSequence (i :: j :: js)).length = 2 + (commandSequence (j :: js)).length :=
        Nat.add_comm _ 2
      rw [hlength]
      exact (core_run_add 2 _ _ _ hfirst).trans hrest

end

/-! ## The two sequences -/

/-- The thirteen commands of 44_block_cipher.md R202. -/
def commandsByRounds : List Instr :=
  ([.loadState 16#5] : List Instr) ++ [0#4, 1#4, 2#4, 3#4, 4#4, 5#4, 6#4, 7#4, 8#4, 9#4, 10#4].map .round ++
    ([.storeState] : List Instr)

/-- What stands for ROUND r, r in 1..9, in the longer sequence of 44_block_cipher.md R202. -/
def fullRoundCommands (r : BitVec 4) : List Instr := [.subBytes, .shiftRows, .mixColumns, .addRoundKey r]

/-- The longer sequence of 44_block_cipher.md R202. -/
def commandsBySteps : List Instr :=
  ([.loadState 16#5, .round 0#4] : List Instr) ++
    [1#4, 2#4, 3#4, 4#4, 5#4, 6#4, 7#4, 8#4, 9#4].flatMap fullRoundCommands ++
    ([.subBytes, .shiftRows, .addRoundKey 10#4, .storeState] : List Instr)

section
variable (din : Block) (rk : Vector Word 44)

/-- ROUND commands run the round steps of their indexes. -/
theorem foldl_blocksAfter_rounds (rs : List (BitVec 4)) (b : Block × Block) :
    (rs.map Instr.round).foldl (blocksAfter din rk) b =
      ((rs.map BitVec.toNat).foldl (fun x r => roundStep x rk r) b.1, b.2) := by
  induction rs generalizing b with
  | nil => rfl
  | cons r rs ih => exact ih _

/-- The four commands of a full round do what its ROUND command does (43_round_transform.md R164). -/
theorem foldl_blocksAfter_fullRound {r : BitVec 4} (hlo : 1 ≤ r.toNat) (hhi : r.toNat ≤ 9) (b : Block × Block) :
    (fullRoundCommands r).foldl (blocksAfter din rk) b = blocksAfter din rk b (.round r) := by
  rw [blocksAfter, roundStep_eq_fullRound hlo hhi]
  rfl

/-- Before STORE_STATE, the three commands of the final round do what ROUND 10 does (43_round_transform.md R164). -/
theorem foldl_blocksAfter_finalRound (b : Block × Block) :
    [Instr.subBytes, .shiftRows, .addRoundKey 10#4, .storeState].foldl (blocksAfter din rk) b =
      [Instr.round 10#4, .storeState].foldl (blocksAfter din rk) b := rfl

/-- The commands of rounds 1 to 9, spelled out, do what the nine ROUND commands do. -/
theorem foldl_blocksAfter_fullRounds {rs : List (BitVec 4)} (h : ∀ r ∈ rs, 1 ≤ r.toNat ∧ r.toNat ≤ 9)
    (b : Block × Block) :
    (rs.flatMap fullRoundCommands).foldl (blocksAfter din rk) b =
      (rs.map Instr.round).foldl (blocksAfter din rk) b := by
  rw [List.foldl_flatMap, List.foldl_map]
  exact List.foldl_ext _ _ b fun a r hr => foldl_blocksAfter_fullRound din rk (h r hr).1 (h r hr).2 a

/-- ROUND 0 to 10 between LOAD_STATE and STORE_STATE are the cipher (44_block_cipher.md R200). -/
theorem foldl_blocksAfter_commandsByRounds (b : Block × Block) :
    commandsByRounds.foldl (blocksAfter din rk) b = (cipher din rk, cipher din rk) := by
  have hindexes : [0#4, 1#4, 2#4, 3#4, 4#4, 5#4, 6#4, 7#4, 8#4, 9#4, 10#4].map BitVec.toNat =
      [0, 1, 2, 3, 4, 5, 6, 7, 8, 9, 10] := rfl
  rw [commandsByRounds, List.foldl_append, List.foldl_append, foldl_blocksAfter_rounds, hindexes,
    ← cipher_eq_foldl_roundStep]
  simp only [List.foldl_cons, List.foldl_nil, blocksAfter]

/-- The commands spelled out for each round do what its ROUND command does. -/
theorem foldl_blocksAfter_commandsBySteps (b : Block × Block) :
    commandsBySteps.foldl (blocksAfter din rk) b = commandsByRounds.foldl (blocksAfter din rk) b := by
  have hsplit : commandsByRounds =
      ([.loadState 16#5, .round 0#4] : List Instr) ++ [1#4, 2#4, 3#4, 4#4, 5#4, 6#4, 7#4, 8#4, 9#4].map .round ++
        ([.round 10#4, .storeState] : List Instr) := rfl
  rw [commandsBySteps, hsplit, List.foldl_append, List.foldl_append, foldl_blocksAfter_fullRounds din rk (by decide),
    foldl_blocksAfter_finalRound, List.foldl_append, List.foldl_append]

end

end Sys2Proof.Machine

namespace Sys2Proof

open Machine

/-- Settles O32: the nine full rounds are the round steps between the first and the last. -/
theorem cipherIsElevenRoundSteps : Obligations.CipherIsElevenRoundSteps := by
  unfold Obligations.CipherIsElevenRoundSteps
  exact ⟨cipher_eq_foldl_roundStep,
    fun x w => ⟨roundStep_zero x w, roundStep_ten x w, fun r hlo hhi => roundStep_eq_fullRound hlo hhi x w⟩⟩

/-- Settles O18: the check is on LEN and then on KS_VALID, and the commit puts the ciphertext of the DIN and RK of
acceptance in STATE and DOUT. -/
theorem encryptBlockStoresTheCiphertext : Obligations.EncryptBlockStoresTheCiphertext := by
  unfold Obligations.EncryptBlockStoresTheCiphertext
  refine ⟨fun v len => decode_eq_ok_iff_of_lenOperand (i := .encryptBlock len) rfl,
    otherWordsAreIllegal_lenOperand rfl, fun s => ⟨fun hb hk => ?_, fun len hb hlen => ?_, fun hb hk => ?_,
    fun len hb => ?_⟩⟩
  · have hcheck := (checkEncryptBlock_sixteen s.snapshot).trans (if_pos hk)
    exact exec_idle_completesAs (i := .encryptBlock 16#5) hb hcheck rfl
      (applyCommit_stateAndDout (cipher s.din s.rk))
  · exact exec_failed (i := .encryptBlock len) hb (checkEncryptBlock_bad hlen s.snapshot)
  · have hcheck := (checkEncryptBlock_sixteen s.snapshot).trans (if_neg (Bool.eq_false_iff.mp hk))
    exact exec_failed (i := .encryptBlock 16#5) hb hcheck
  · exact exec_busy (.encryptBlock len) hb

/-- Settles O28: each of the three sequences settles the core with the ciphertext in STATE and DOUT. -/
theorem stepwiseEncryptionEqualsEncryptBlock : Obligations.StepwiseEncryptionEqualsEncryptBlock := by
  unfold Obligations.StepwiseEncryptionEqualsEncryptBlock
  intro s es hr hb _ hk whole byRounds bySteps
  refine ⟨settled s (cipher s.din s.rk, cipher s.din s.rk) es, ?_, rfl, rfl, ?_, ?_⟩
  · exact core_run_commandSequence hr hb hk (List.cons_ne_nil _ _) (by decide) es
  · rw [← foldl_blocksAfter_commandsByRounds s.din s.rk (s.state, s.dout)]
    exact core_run_commandSequence (is := commandsByRounds) hr hb hk (by decide) (by decide) es
  · rw [← foldl_blocksAfter_commandsByRounds s.din s.rk (s.state, s.dout), ← foldl_blocksAfter_commandsBySteps]
    exact core_run_commandSequence (is := commandsBySteps) hr hb hk (by decide) (by decide) es

end Sys2Proof
end

section
/-! SUPPORT. The padding engine (45_padding.md R220, R221): the bytes of a padded block, the last block of a padded
sequence, and the padded length. Then PAD (R222), a command with a length that only writes DOUT. -/

namespace Sys2Proof.Machine

/-! ## Padding -/

theorem unpack_padBlock (d : Block) (n : Nat) (k : Fin 16) :
    (padBlock d n).unpack k = if k.val < n then d.unpack k else BitVec.ofNat 8 (16 - n) :=
  Block.unpack_pack _ k

theorem length_pad (data : List Byte) : (pad data).length = data.length + (16 - data.length % 16) := by
  simp only [pad, List.length_append, List.length_replicate]

/-- A block that begins with the bytes of `chunk` is padded to `chunk` and the fill, whatever follows them in it
(45_padding.md R221). -/
theorem bytes_padBlock {chunk : List Byte} (hlen : chunk.length ≤ 16) {d : Block}
    (hd : ∀ k : Fin 16, k.val < chunk.length → some (d.unpack k) = chunk[k.val]?) :
    (List.finRange 16).map (padBlock d chunk.length).unpack =
      chunk ++ List.replicate (16 - chunk.length) (BitVec.ofNat 8 (16 - chunk.length)) := by
  refine List.ext_getElem (by simp; omega) fun k hk _ => ?_
  have hk16 : k < 16 := by simpa using hk
  rw [List.getElem_map, List.getElem_finRange, unpack_padBlock]
  by_cases hlt : k < chunk.length
  · have hbyte := hd ⟨k, hk16⟩ hlt
    rw [List.getElem?_eq_getElem hlt, Option.some_inj] at hbyte
    rw [List.getElem_append_left hlt]
    exact (if_pos hlt).trans hbyte
  · rw [List.getElem_append_right (by omega), List.getElem_replicate]
    exact if_neg hlt

/-- 45_padding.md R220, R221: the bytes after the whole blocks are the chunk that the last block pads. -/
theorem pad_eq_take_append_padBlock {data : List Byte} {d : Block}
    (hd : ∀ k : Fin 16, k.val < data.length % 16 →
      some (d.unpack k) = data[data.length - data.length % 16 + k.val]?) :
    pad data = data.take (data.length - data.length % 16) ++
      (List.finRange 16).map (padBlock d (data.length % 16)).unpack := by
  have hlen : (data.drop (data.length - data.length % 16)).length = data.length % 16 := by
    rw [List.length_drop]; omega
  have hlast := bytes_padBlock (chunk := data.drop (data.length - data.length % 16)) (d := d) (by omega)
    fun k hk => by rw [List.getElem?_drop]; exact hd k (hlen ▸ hk)
  rw [hlen] at hlast
  rw [hlast, ← List.append_assoc, List.take_append_drop, pad]

end Sys2Proof.Machine

namespace Sys2Proof

open Machine

/-- Settles O39: the bytes of `pad_block`, and the sequence cut where its last block begins. -/
theorem padBlockIsTheLastBlockOfPad : Obligations.PadBlockIsTheLastBlockOfPad := by
  unfold Obligations.PadBlockIsTheLastBlockOfPad
  refine ⟨fun d n k _ => unpack_padBlock d n k, fun _ _ => pad_eq_take_append_padBlock,
    fun data => ⟨length_pad data, ?_⟩⟩
  rw [length_pad]
  omega

/-- Settles O27: the check is on LEN alone, and the commit puts the padded DIN of acceptance in DOUT. -/
theorem padCommandPadsTheFinalChunk : Obligations.PadCommandPadsTheFinalChunk := by
  unfold Obligations.PadCommandPadsTheFinalChunk
  refine ⟨fun v n => decode_eq_ok_iff_of_lenOperand (i := .pad n) rfl,
    otherWordsAreIllegal_lenOperand rfl, fun s n => ⟨fun hb hn => ?_, fun hb hn => ?_, exec_busy (.pad n)⟩⟩
  · exact exec_idle_completesAs (i := .pad n) hb (checkPad_ok hn s.snapshot) rfl
      (applyCommit_doutWrites (padBlock s.din n.toNat))
  · exact exec_failed (i := .pad n) hb (checkPad_bad hn s.snapshot)

end Sys2Proof
end

section
/-! SUPPORT. The error record and the checks of 60_exceptions.md: what raising an error leaves (R242, R243), the check
of a decoded command by the fields of its word, in the order of R244, the interrupt words bit by bit (R248), and a
platform core by core (R263). -/

namespace Sys2Proof.Machine

/-! ## The error record -/

theorem raiseCmdError_first {s : State} (h : s.err = false) (e : ErrorCode) (op : BitVec 5) :
    raiseCmdError e op s =
      { s with err := true, errCode := e.toBits, errOp := op, irqStatus := ⟨s.irqStatus.done, true⟩ } :=
  if_neg (Bool.eq_false_iff.mp h)

theorem raiseCmdError_later {s : State} (h : s.err = true) (e : ErrorCode) (op : BitVec 5) :
    raiseCmdError e op s = { s with errOvf := true, irqStatus := ⟨s.irqStatus.done, true⟩ } := if_pos h

/-- `t` is `s` with ERR = 1, any ERR_OVF and ERRCODE, and these IRQ_STATUS bits. -/
def RecordsError (s : State) (irqStatus : IrqBits) (t : State) : Prop :=
  t = { s with err := true, errOvf := t.errOvf, errCode := t.errCode, errOp := t.errOp, irqStatus := irqStatus }

/-- An error changes the error record and IRQ_STATUS.ERR only (60_exceptions.md R242). -/
theorem raiseCmdError_records (e : ErrorCode) (op : BitVec 5) (s : State) :
    RecordsError s ⟨s.irqStatus.done, true⟩ (raiseCmdError e op s) := by
  unfold RecordsError
  cases h : s.err with
  | false => rw [raiseCmdError_first h]
  | true => rw [raiseCmdError_later h, ← h]

/-- A failure at once also sets DONE, and changes nothing more (40_command_issue.md R101). -/
theorem failAtOnce_records (e : ErrorCode) (op : BitVec 5) (s : State) :
    RecordsError s ⟨true, true⟩ (failAtOnce e op s) :=
  congrArg setDone (raiseCmdError_records e op s)

/-- A completion leaves the error record and IRQ_STATUS.ERR alone (60_exceptions.md R243). -/
theorem complete_errorRecord (p : Pending) (s : State) :
    (complete p s).err = s.err ∧ (complete p s).errOvf = s.errOvf ∧ (complete p s).errCode = s.errCode ∧
      (complete p s).errOp = s.errOp ∧ (complete p s).irqStatus.err = s.irqStatus.err := by
  obtain ⟨_, _, _, _, _, h⟩ := applyCommit_frame p.commit s
  rw [complete_eq, h]
  exact ⟨rfl, rfl, rfl, rfl, rfl⟩

/-! ## The CMD write -/

theorem cmdWrite_busy {s : State} (h : s.busy = true) (v : Word) :
    cmdWrite v s = .next (raiseCmdError .commandOverrun (opField v) s) := if_pos h

/-- The decoder reads every word that is not illegal as a command (30_encoding.md R84). -/
theorem exists_decode_of_legal {v : Word} (h : ¬ IllegalWord v) : ∃ i, decode v = .ok i := by
  cases hd : decode v with
  | ok i => exact ⟨i, rfl⟩
  | error e => exact absurd ((decode_refuses_iff v).mp ⟨e, hd⟩) h

/-- Everything a CMD write can do: overrun, failure at once, or acceptance of its command (40_command_issue.md R100 to
R102). -/
theorem cmdWrite_cases {v : Word} {s t : State} (h : cmdWrite v s = .next t) :
    (s.busy = true ∧ t = raiseCmdError .commandOverrun (opField v) s) ∨
    (s.busy = false ∧ ∃ e op, t = failAtOnce e op s) ∨
    (s.busy = false ∧ ∃ i, decode v = .ok i ∧ t = accept i.opcode (effectOf i s.snapshot) (acceptSideEffect i s)) := by
  have result {u : State} (hu : cmdWrite v s = .next u) : t = u := Host.Outcome.next.inj (h.symm.trans hu)
  cases hb : s.busy with
  | true => exact .inl ⟨rfl, result (cmdWrite_busy hb v)⟩
  | false =>
    refine .inr ?_
    by_cases hill : IllegalWord v
    · exact .inl ⟨rfl, _, _, result (cmdWrite_illegal hb hill)⟩
    · obtain ⟨i, hd⟩ := exists_decode_of_legal hill
      have hexec := cmdWrite_of_decode hd s
      cases hc : checkOf i s.snapshot with
      | some e => exact .inl ⟨rfl, e, _, result (hexec.trans (exec_failed hb hc))⟩
      | none => exact .inr ⟨rfl, i, hd, result (hexec.trans (exec_accepted hb hc))⟩

/-! ## The check of a decoded word -/

section
variable {v : Word} {i : Instr}

/-- The OP and LEN of a command's word are the command's. -/
theorem fields_of_decode (hd : decode v = .ok i) : v.extractLsb' 0 5 = i.opcode ∧ v.extractLsb' 16 5 = i.lenOf := by
  obtain ⟨rfl, -⟩ := decode_eq_ok_iff.mp hd
  obtain ⟨hop, -, -, -, hlen, -⟩ := encodedFields i
  exact ⟨hop, hlen⟩

theorem checkOf_keyLengthBad (hd : decode v = .ok i) (h : KeyLengthBad v) (snap : Snapshot) :
    checkOf i snap = some .invalidKeyLength := by
  obtain ⟨hop, hlen⟩ := fields_of_decode hd
  unfold KeyLengthBad at h
  rw [hop, hlen] at h
  cases i with
  | expandKey len => exact checkExpandKey_bad h.2 snap
  | _ => simp [Instr.opcode] at h

theorem checkOf_blockLengthBad (hd : decode v = .ok i) (h : BlockLengthBad v) (snap : Snapshot) :
    checkOf i snap = some .invalidBlockLength := by
  obtain ⟨hop, hlen⟩ := fields_of_decode hd
  unfold BlockLengthBad at h
  rw [hop, hlen] at h
  cases i with
  | encryptBlock len => exact checkEncryptBlock_bad (by simpa [Instr.opcode, Instr.lenOf] using h) snap
  | loadState len => exact checkLoadState_bad (by simpa [Instr.opcode, Instr.lenOf] using h) snap
  | pad len => exact checkPad_bad (by simpa [Instr.opcode, Instr.lenOf] using h) snap
  | _ => simp [Instr.opcode] at h

/-- With a right length only the schedule is left to check (60_exceptions.md R241). -/
theorem checkOf_lengthOk (hd : decode v = .ok i) (hkey : ¬ KeyLengthBad v) (hblock : ¬ BlockLengthBad v)
    (snap : Snapshot) :
    checkOf i snap =
      if i.opcode ∈ [0x02#5, 0x08#5, 0x09#5] ∧ snap.ksValid = false then some .scheduleNotValid else none := by
  obtain ⟨-, hwf⟩ := decode_eq_ok_iff.mp hd
  obtain ⟨hop, hlen⟩ := fields_of_decode hd
  unfold KeyLengthBad at hkey
  unfold BlockLengthBad at hblock
  rw [hop, hlen] at hkey hblock
  cases i with
  | expandKey len =>
    obtain rfl : len = 16#5 := by simpa [Instr.opcode, Instr.lenOf] using hkey
    rfl
  | loadState len =>
    obtain rfl : len = 16#5 := by simpa [Instr.opcode, Instr.lenOf] using hblock
    rfl
  | pad len => exact checkPad_ok (by simpa [Instr.opcode, Instr.lenOf] using hblock) snap
  | encryptBlock len =>
    obtain rfl : len = 16#5 := by simpa [Instr.opcode, Instr.lenOf] using hblock
    cases h : snap.ksValid <;> simp [checkOf, Instr.opcode, h]
  | addRoundKey rnd | round rnd =>
    have hrnd := checkRoundIndex_ok (of_decide_eq_true hwf) snap
    cases h : snap.ksValid <;> simp [checkOf, Instr.opcode, h, hrnd]
  | nop | storeState | subBytes | shiftRows | mixColumns | gfMul => rfl

end

/-! ## The interrupt words -/

theorem toWord_and (a b : IrqBits) : a.toWord &&& b.toWord = IrqBits.toWord ⟨a.done && b.done, a.err && b.err⟩ := by
  apply BitVec.eq_of_getLsbD_eq
  intro n _
  rw [BitVec.getLsbD_and, IrqBits.getLsbD_toWord, IrqBits.getLsbD_toWord, IrqBits.getLsbD_toWord]
  match n with
  | 0 | 1 => simp
  | n + 2 => simp

theorem toWord_ne_zero_iff : ∀ done err : Bool, IrqBits.toWord ⟨done, err⟩ ≠ 0#32 ↔ (done || err) = true := by decide

/-! ## Platforms -/

/-- Everything a step of core number `k` can do to a platform. -/
theorem stepInstance_cases {p p' : Platform} {k : Nat} (h : p.stepInstance k = .next p') :
    (p[k]? = none ∧ p' = p) ∨
    ∃ x s, p[k]? = some x ∧ step x.core = .next s ∧ p' = p.set k ⟨x.base, s⟩ := by
  cases hx : p[k]? with
  | none => exact .inl ⟨rfl, by simpa [Platform.stepInstance, hx] using h.symm⟩
  | some x =>
    cases hs : step x.core with
    | next s => exact .inr ⟨x, s, rfl, hs, Host.Outcome.next.inj (h.symm.trans (stepInstance_next hx hs))⟩
    | fault r => simp [Platform.stepInstance, hx, hs] at h
    | refused r => simp [Platform.stepInstance, hx, hs] at h

/-- No address of a well-formed platform is claimed by two cores: aligned blocks of 4 KiB that share an address are the
same block. -/
theorem claims_unique {p : Platform} (hwf : p.wf = true) {addr j k : Nat} {x y : Instance} (hx : p[j]? = some x)
    (hy : p[k]? = some y) (hxa : x.claims addr = true) (hya : y.claims addr = true) : j = k := by
  obtain ⟨halign, hnodup⟩ := (wf_iff p).mp hwf
  have hbase : x.base = y.base := by
    have hxalign := halign x (List.mem_of_getElem? hx)
    have hyalign := halign y (List.mem_of_getElem? hy)
    rw [claims_iff] at hxa hya
    omega
  have hlt : j < (p.map fun x => x.base).length := by simpa using (List.getElem?_eq_some_iff.mp hx).1
  exact (List.getElem?_inj hlt hnodup).mp (by simp [hx, hy, hbase])

end Sys2Proof.Machine

namespace Sys2Proof

open Machine

/-- Settles O8: with a word that is not illegal the step is `exec` of its command, whose check goes by the word's
fields. -/
theorem oneErrorPerCmdWriteByPriority : Obligations.OneErrorPerCmdWriteByPriority := by
  unfold Obligations.OneErrorPerCmdWriteByPriority
  intro s v es hr he
  have hstep : step s = cmdWrite v (s.served es (.writeDone false)) := step_wr he hr
  have hfailed (hb : s.busy = false) (hlegal : ¬ IllegalWord v) {e : ErrorCode}
      (hcheck : ∀ i, decode v = .ok i → checkOf i s.snapshot = some e) :
      step s = .next (failAtOnce e (v.extractLsb' 0 5) (s.served es (.writeDone false))) := by
    obtain ⟨i, hd⟩ := exists_decode_of_legal hlegal
    rw [hstep, cmdWrite_of_decode hd, (fields_of_decode hd).1]
    exact exec_failed hb (hcheck i hd)
  refine ⟨fun hb => hstep.trans (cmdWrite_busy (s := s.served es _) hb v),
    fun hb hill => hstep.trans (cmdWrite_illegal (s := s.served es _) hb hill),
    fun hb hlegal hkey => hfailed hb hlegal fun i hd => checkOf_keyLengthBad hd hkey _,
    fun hb hlegal hblock => hfailed hb hlegal fun i hd => checkOf_blockLengthBad hd hblock _,
    fun hb hlegal hkey hblock hneeds hks => hfailed hb hlegal fun i hd => ?_,
    fun hb hlegal hkey hblock hvalid => ?_⟩
  · rw [checkOf_lengthOk hd hkey hblock, ← (fields_of_decode hd).1]
    exact if_pos ⟨hneeds, hks⟩
  · obtain ⟨i, hd⟩ := exists_decode_of_legal hlegal
    obtain ⟨hop, -⟩ := fields_of_decode hd
    have hcheck : checkOf i s.snapshot = none := by
      rw [checkOf_lengthOk hd hkey hblock, ← hop]
      exact if_neg fun ⟨hneeds, hks⟩ => Bool.eq_false_iff.mp hks (hvalid hneeds)
    obtain ⟨b, hside⟩ := acceptSideEffect_eq i (s.served es (.writeDone false))
    have haccepted := exec_accepted (s := s.served es (.writeDone false)) hb hcheck
    rw [hside] at haccepted
    exact ⟨_, (hstep.trans (cmdWrite_of_decode hd _)).trans haccepted, rfl, ⟨_, rfl, hop.symm⟩, rfl, rfl, rfl, rfl, rfl⟩

/-- Settles O9: a CMD write that is not accepted raises its error and, where it was no overrun, sets DONE; a completion
only makes the writes of its commit. -/
theorem rejectedCommandsChangeOnlyTheErrorRecord : Obligations.RejectedCommandsChangeOnlyTheErrorRecord := by
  unfold Obligations.RejectedCommandsChangeOnlyTheErrorRecord
  refine ⟨fun s t v es hr he hstep hrejected => ?_, fun s t p es hr hp he hstep => ?_⟩
  · rw [step_wr he hr] at hstep
    obtain ⟨hb, rfl⟩ | ⟨hb, e, op, rfl⟩ | ⟨hb, i, -, rfl⟩ := cmdWrite_cases hstep
    · have hdone : (s.irqStatus.done || !s.busy) = s.irqStatus.done := by simp [show s.busy = true from hb]
      rw [hdone]
      exact raiseCmdError_records _ _ _
    · have hdone : (s.irqStatus.done || !s.busy) = true := by simp [show s.busy = false from hb]
      rw [hdone]
      exact failAtOnce_records _ _ _
    · simp [show s.busy = false from hb] at hrejected
  · have hedge : internalEdge { s with events := es } = complete p { s with events := es } := internalEdge_pending hr hp
    rw [step_completion he, hedge] at hstep
    cases hstep
    exact complete_errorRecord p _

/-- Settles O49: the AND of the two words holds the enabled pending sources, and is 0 where there is none. -/
theorem irqIsTheLevelOfEnabledPendingSources : Obligations.IrqIsTheLevelOfEnabledPendingSources := by
  unfold Obligations.IrqIsTheLevelOfEnabledPendingSources
  intro s
  have hand : readReg s .irqStatus &&& readReg s .irqEn = _ := toWord_and s.irqStatus s.irqEn
  rw [hand, toWord_ne_zero_iff, State.irq]

/-- Settles O59: a step and a transaction change one element of the list, and distinct aligned blocks are disjoint. -/
theorem coresOfAPlatformAreIndependent : Obligations.CoresOfAPlatformAreIndependent := by
  unfold Obligations.CoresOfAPlatformAreIndependent
  refine ⟨fun p k x s hx hs => ⟨_, stepInstance_next hx hs, ?_⟩, fun p p' k j h hne => ?_,
    fun p addr j k x y hwf hx hy hxa hya => claims_unique hwf hx hy hxa hya,
    fun p j x offset t hwf hx => ⟨?_, fun k hne => ?_⟩⟩
  · exact List.getElem?_set_self (List.getElem?_eq_some_iff.mp hx).1
  · obtain ⟨-, rfl⟩ | ⟨_, _, -, -, rfl⟩ := stepInstance_cases h
    · rfl
    · exact List.getElem?_set_ne hne.symm
  · simp [getElem?_place, hx, claims_base_add, receive_base_add]
  · rw [getElem?_place]
    cases hy : p[k]? with
    | none => rfl
    | some y =>
      have hnot : ¬ y.claims (x.base + offset.toNat) = true := fun hclaims =>
        hne (claims_unique hwf hy hx hclaims (claims_base_add x offset))
      rw [Option.map_some, if_neg hnot]

/-- Settles O7: the two branches of raising an error, and the numbers of its codes. -/
theorem firstCommandErrorWins : Obligations.FirstCommandErrorWins := by
  unfold Obligations.FirstCommandErrorWins
  exact ⟨fun e op _ h => raiseCmdError_first h e op, fun e op _ h => raiseCmdError_later h e op,
    rfl, rfl, rfl, rfl, rfl⟩

end Sys2Proof
end

section
/-! SUPPORT. Reset: the reset values as the registers read them (70_reset_and_hazards.md R281), the soft reset (R283),
and which steps stop the core (R280; 60_exceptions.md R253). -/

namespace Sys2Proof.Machine

/-! ## Reset values -/

theorem registersReset_reset : RegistersReset State.reset := by
  constructor <;> rfl

@[simp] theorem get_zero (c : Fin 4) : Block.zero.get c = 0#32 := by fin_cases c <;> rfl

/-- In reset every register but ID reads 0, RK because KS_VALID = 0 (70_reset_and_hazards.md R281). -/
theorem readReg_of_registersReset {s : State} (h : RegistersReset s) {r : Reg} (hr : r ≠ .id) :
    readReg s r = 0#32 := by
  cases r with
  | id => exact absurd rfl hr
  | ctrl | cmd => rfl
  | status => simp [readReg, State.statusWord, bit, h.errOvf, h.err, h.ksValid, h.busy]
  | errcode => simp [readReg, State.errcodeWord, h.errOp, h.errCode]
  | irqEn => simp [readReg, IrqBits.toWord, bit, h.irqEn]
  | irqStatus => simp [readReg, IrqBits.toWord, bit, h.irqStatus]
  | gfOps => simp [readReg, State.gfOpsWord, h.gfA, h.gfB]
  | gfRes => simp [readReg, State.gfResWord, h.gfRes]
  | key j => simp [readReg, h.key]
  | din j => simp [readReg, h.din]
  | dout j => simp [readReg, h.dout]
  | state j => simp [readReg, h.state]
  | rk i => simp [readReg, h.ksValid]

theorem irq_of_registersReset {s : State} (h : RegistersReset s) : s.irq = false := by
  simp [State.irq, h.irqEn]

/-! ## Soft reset -/

theorem ctrlWrite_resets {v : Word} (h : v.getLsbD 0 = true) (s : State) :
    ctrlWrite v s = doReset { s with ctrlSrst := true } := if_pos h

theorem ctrlWrite_ignored {v : Word} (h : v.getLsbD 0 = false) (s : State) : ctrlWrite v s = s :=
  if_neg (Bool.eq_false_iff.mp h)

/-! ## Stops -/

/-- With `rst_n` low only a transaction stops the core (70_reset_and_hazards.md R280; log 6). -/
theorem step_of_low {s : State} (hr : s.rstN = false) :
    (∃ t, step s = .next t) ∨ (step s = .fault .accessDuringReset ∧ ∃ x es, s.events = .bus x :: es) := by
  cases he : s.events with
  | nil => exact .inl ⟨_, step_nil he⟩
  | cons e es =>
    cases e with
    | bus x => exact .inr ⟨step_bus_low he hr, x, es, rfl⟩
    | completion => exact .inl ⟨_, step_completion he⟩
    | rstLow => exact .inl ⟨_, step_rstLow he⟩
    | rstHigh => exact .inl ⟨_, step_rstHigh he⟩

@[simp] theorem internalEdge_rstN (s : State) : (internalEdge s).rstN = s.rstN := by
  obtain ⟨-, h⟩ | ⟨-, -, h⟩ | ⟨-, p, -, h⟩ := internalEdge_cases s <;> simp [h]

/-- A transaction leaves the pin alone. -/
theorem step_bus_rstN {s t : State} {x : Transaction} {es : List Event} (he : s.events = .bus x :: es)
    (h : step s = .next t) : t.rstN = s.rstN := by
  cases step_cases h with
  | noEvent he' | completion _ he' | rstLow _ he' | rstHigh _ he' => rw [he'] at he; cases he
  | accepted _ _ _ _ _ _ _ i =>
    obtain ⟨b, hside⟩ := acceptSideEffect_eq i _
    rw [hside]
    rfl
  | overrun | failed => simp [failAtOnce]
  | answered | softReset | clearedErrors | irqEn | irqStatus | gfOps | key | din => rfl

/-- A host that keeps off the port in reset goes on doing so (70_reset_and_hazards.md R280; U12). -/
theorem noAccessInReset_step {s t : State} (hs : step s = .next t) (h : noAccessInReset s.rstN s.events = true) :
    noAccessInReset t.rstN t.events = true := by
  rw [step_events hs]
  cases he : s.events with
  | nil => rfl
  | cons e es =>
    rw [he] at h
    cases e with
    | bus x =>
      rw [noAccessInReset, Bool.and_eq_true] at h
      rw [step_bus_rstN he hs]
      exact h.2
    | completion => rw [step_completion he] at hs; cases hs; simpa [noAccessInReset] using h
    | rstLow => rw [step_rstLow he] at hs; cases hs; exact h
    | rstHigh => rw [step_rstHigh he] at hs; cases hs; exact h

theorem step_next_of_noAccessInReset {s : State} (h : noAccessInReset s.rstN s.events = true) :
    ∃ t, step s = .next t := by
  cases hr : s.rstN with
  | true => exact step_next_of_high hr
  | false =>
    obtain hnext | ⟨-, x, es, he⟩ := step_of_low hr
    · exact hnext
    · simp [he, hr, noAccessInReset] at h

end Sys2Proof.Machine

namespace Sys2Proof

open Machine

/-- Settles O14: with `rst_n` high every step goes on, and a host that keeps off the port in reset still does after each
step of the run. -/
theorem onlyAnAccessDuringResetStopsTheCore : Obligations.OnlyAnAccessDuringResetStopsTheCore := by
  unfold Obligations.OnlyAnAccessDuringResetStopsTheCore
  refine ⟨fun s => ?_, fun s n h => ?_⟩
  · cases hr : s.rstN with
    | true => exact .inl (step_next_of_high hr)
    | false => exact (step_of_low hr).imp_right fun ⟨hfault, haccess⟩ => ⟨hfault, rfl, haccess⟩
  · induction n generalizing s with
    | zero => exact ⟨s, rfl⟩
    | succ n ih =>
      obtain ⟨t, hs⟩ := step_next_of_noAccessInReset h
      rw [core_run_next hs]
      exact ih t (noAccessInReset_step hs h)

/-- Settles O52: the write is answered, and then `ctrlWrite` resets or does nothing. -/
theorem softResetResetsAtTheWrite : Obligations.SoftResetResetsAtTheWrite := by
  unfold Obligations.SoftResetResetsAtTheWrite
  intro s v es hr he
  have hs : step s = .next (ctrlWrite v (s.served es (.writeDone false))) := step_wr he hr
  refine ⟨fun hv => ?_, fun hv => by rw [hs, ctrlWrite_ignored hv]⟩
  rw [ctrlWrite_resets hv] at hs
  exact ⟨_, hs, registersReset_doReset _, hr, rfl, rfl, rfl, rfl⟩

/-- Settles O50: the reset state is one in which every register is at its reset value, and ID is a constant. -/
theorem resetStateReadsAsStated : Obligations.ResetStateReadsAsStated := by
  unfold Obligations.ResetStateReadsAsStated
  exact ⟨rfl, fun _ => readReg_of_registersReset registersReset_reset, registersReset_reset.pending,
    registersReset_reset.busy, irq_of_registersReset registersReset_reset⟩

/-- Settles O51: an edge in reset is `hardwareReset`, and the core's own step does nothing with no command pending. -/
theorem hardwareResetResetsEveryRegister : Obligations.HardwareResetResetsEveryRegister := by
  unfold Obligations.HardwareResetResetsEveryRegister
  refine ⟨fun s es he => ⟨_, step_rstLow he, registersReset_hardwareReset _, rfl, rfl⟩,
    fun s es he => step_rstHigh he, fun s es hr hp he => ?_, fun s hr hp he => ?_⟩
  · exact (step_completion he).trans (congrArg Host.Outcome.next (internalEdge_idle hr hp))
  · rw [step_nil he, internalEdge_idle hr hp]

/-- Settles O55: the reset state is at reset. -/
theorem resetMeetsTheInvariant : Obligations.ResetMeetsTheInvariant := by
  unfold Obligations.ResetMeetsTheInvariant
  exact registersReset_reset.inv

end Sys2Proof
end

section
/-! SUPPORT. Two machines that differ only in RK while KS_VALID = 0 (70_reset_and_hazards.md R282): each operation, from
the shared ones up to a step, leaves them equal or again different only there. -/

namespace Sys2Proof.Machine

/-- `s` with other contents of RK. -/
def State.withRk (s : State) (r : Vector Word 44) : State := { s with rk := r }

/-- What became of `s` and of `s` with RK = `r`: they are one state now, or with KS_VALID = 0 they still differ only in
RK, which both have kept. -/
def RkHidden (s : State) (r : Vector Word 44) (t t' : State) : Prop :=
  t' = t ∨ (t.ksValid = false ∧ t.rk = s.rk ∧ t' = t.withRk r)

/-- Both machines go on, to states that RK tells apart at most. -/
def StepsHideRk (s : State) (r : Vector Word 44) (o o' : Host.Outcome State Fault Refusal) : Prop :=
  ∃ t t', o = .next t ∧ o' = .next t' ∧ RkHidden s r t t'

theorem raiseCmdError_withRk (e : ErrorCode) (op : BitVec 5) (s : State) (r : Vector Word 44) :
    raiseCmdError e op (s.withRk r) = (raiseCmdError e op s).withRk r := by
  have herr : (s.withRk r).err = s.err := rfl
  cases h : s.err with
  | false => rw [raiseCmdError_first h, raiseCmdError_first (herr.trans h)]; rfl
  | true => rw [raiseCmdError_later h, raiseCmdError_later (herr.trans h)]; rfl

theorem acceptSideEffect_withRk (i : Instr) (s : State) (r : Vector Word 44) :
    acceptSideEffect i (s.withRk r) = (acceptSideEffect i s).withRk r := by
  cases i <;> rfl

/-- No check looks at RK (60_exceptions.md R241). -/
theorem checkOf_withRk (i : Instr) (s : State) (r : Vector Word 44) :
    checkOf i (s.withRk r).snapshot = checkOf i s.snapshot := by
  cases i <;> rfl

section
variable {s : State} (hk : s.ksValid = false) (r : Vector Word 44)
include hk

theorem checkEncryptBlock_ne_none (len : BitVec 5) : checkEncryptBlock len s.snapshot ≠ none := by
  unfold checkEncryptBlock
  split <;> simp [hk]

theorem checkRoundIndex_ne_none (rnd : BitVec 4) : checkRoundIndex rnd s.snapshot ≠ none := by
  unfold checkRoundIndex
  split <;> simp [hk]

/-- The commands whose effect uses RK fail their check while KS_VALID = 0 (60_exceptions.md R241). -/
theorem effectOf_withRk {i : Instr} (hc : checkOf i s.snapshot = none) :
    effectOf i (s.withRk r).snapshot = effectOf i s.snapshot := by
  cases i with
  | encryptBlock len => exact absurd hc (checkEncryptBlock_ne_none hk len)
  | addRoundKey rnd | round rnd => exact absurd hc (checkRoundIndex_ne_none hk rnd)
  | _ => rfl

theorem raiseCmdError_hidesRk (e : ErrorCode) (op : BitVec 5) :
    RkHidden s r (raiseCmdError e op s) (raiseCmdError e op (s.withRk r)) :=
  .inr ⟨by simpa using hk, by simp, raiseCmdError_withRk e op s r⟩

theorem failAtOnce_hidesRk (e : ErrorCode) (op : BitVec 5) :
    RkHidden s r (failAtOnce e op s) (failAtOnce e op (s.withRk r)) :=
  .inr ⟨by simpa [failAtOnce] using hk, by simp [failAtOnce], congrArg setDone (raiseCmdError_withRk e op s r)⟩

/-- Acceptance captures nothing of RK, and EXPAND_KEY keeps KS_VALID at 0 (42_key_schedule.md R144). -/
theorem accept_hidesRk {i : Instr} (hc : checkOf i s.snapshot = none) :
    RkHidden s r (accept i.opcode (effectOf i s.snapshot) (acceptSideEffect i s))
      (accept i.opcode (effectOf i (s.withRk r).snapshot) (acceptSideEffect i (s.withRk r))) := by
  rw [effectOf_withRk hk r hc, acceptSideEffect_withRk]
  obtain heq | ⟨-, heq⟩ := acceptSideEffect_cases i s <;> rw [heq]
  · exact .inr ⟨rfl, rfl, rfl⟩
  · exact .inr ⟨hk, rfl, rfl⟩

/-- No command observes RK (70_reset_and_hazards.md R282). -/
theorem exec_hidesRk (i : Instr) : StepsHideRk s r (exec i s) (exec i (s.withRk r)) := by
  have hcheck := checkOf_withRk i s r
  obtain ⟨hb, h⟩ | ⟨hb, e, hc, h⟩ | ⟨hb, hc, h⟩ := exec_cases i s
  · exact ⟨_, _, h, exec_busy i hb, raiseCmdError_hidesRk hk r _ _⟩
  · exact ⟨_, _, h, exec_failed hb (hcheck.trans hc), failAtOnce_hidesRk hk r _ _⟩
  · exact ⟨_, _, h, exec_accepted hb (hcheck.trans hc), accept_hidesRk hk r hc⟩

theorem cmdWrite_hidesRk (v : Word) : StepsHideRk s r (cmdWrite v s) (cmdWrite v (s.withRk r)) := by
  have hbusy : (s.withRk r).busy = s.busy := rfl
  cases hb : s.busy with
  | true => exact ⟨_, _, cmdWrite_busy hb v, cmdWrite_busy (hbusy.trans hb) v, raiseCmdError_hidesRk hk r _ _⟩
  | false =>
    by_cases hill : IllegalWord v
    · exact ⟨_, _, cmdWrite_illegal hb hill, cmdWrite_illegal (hbusy.trans hb) hill, failAtOnce_hidesRk hk r _ _⟩
    · obtain ⟨i, hd⟩ := exists_decode_of_legal hill
      rw [cmdWrite_of_decode hd, cmdWrite_of_decode hd]
      exact exec_hidesRk hk r i

/-- A soft reset draws the same RK in both machines; every other CTRL write does nothing. -/
theorem ctrlWrite_hidesRk (v : Word) : RkHidden s r (ctrlWrite v s) (ctrlWrite v (s.withRk r)) := by
  cases hv : v.getLsbD 0 with
  | true => rw [ctrlWrite_resets hv, ctrlWrite_resets hv]; exact .inl rfl
  | false => rw [ctrlWrite_ignored hv, ctrlWrite_ignored hv]; exact .inr ⟨hk, rfl, rfl⟩

theorem statusWrite_hidesRk (v : Word) : RkHidden s r (statusWrite v s) (statusWrite v (s.withRk r)) := by
  cases hv : v.getLsbD 2 with
  | true => rw [statusWrite_clears hv, statusWrite_clears hv]; exact .inr ⟨hk, rfl, rfl⟩
  | false => rw [statusWrite_ignored hv, statusWrite_ignored hv]; exact .inr ⟨hk, rfl, rfl⟩

theorem writeReg_hidesRk (g : Reg) (v : Word) : StepsHideRk s r (writeReg g v s) (writeReg g v (s.withRk r)) := by
  cases g with
  | cmd => exact cmdWrite_hidesRk hk r v
  | ctrl => exact ⟨_, _, rfl, rfl, ctrlWrite_hidesRk hk r v⟩
  | status => exact ⟨_, _, rfl, rfl, statusWrite_hidesRk hk r v⟩
  | _ => exact ⟨_, _, rfl, rfl, .inr ⟨hk, rfl, rfl⟩⟩

theorem busEffect_hidesRk (x : Transaction) : StepsHideRk s r (busEffect x s) (busEffect x (s.withRk r)) := by
  have hnothing : StepsHideRk s r (.next s) (.next (s.withRk r)) := ⟨_, _, rfl, rfl, .inr ⟨hk, rfl, rfl⟩⟩
  cases x with
  | read a => exact hnothing
  | write a v strb =>
    cases hl : (Transaction.write a v strb).legal with
    | false => simpa [busEffect, hl] using hnothing
    | true =>
      cases hreg : regAt a with
      | none => simpa [busEffect, hl, writeOffset, hreg] using hnothing
      | some g => simpa [busEffect, hl, writeOffset, hreg] using writeReg_hidesRk hk r g v

/-- RK reads 0 while KS_VALID = 0, whatever it holds (10_state.md R37). -/
theorem readReg_withRk (g : Reg) : readReg (s.withRk r) g = readReg s g := by
  cases g with
  | rk i => simp [readReg, State.withRk, hk]
  | _ => rfl

theorem busResponse_withRk (x : Transaction) : busResponse x (s.withRk r) = busResponse x s := by
  cases x with
  | read a => simp only [busResponse, readOffset, readReg_withRk hk]
  | write => rfl

/-- The commit of EXPAND_KEY overwrites all of RK, and every other one leaves RK alone (30_encoding.md R86). -/
theorem applyCommit_hidesRk {op : BitVec 5} {ws : List RegWrite} (h : CommitCase op ws) :
    RkHidden s r (applyCommit ws s) (applyCommit ws (s.withRk r)) := by
  cases h with
  | schedule k =>
    simp only [applyCommit_scheduleWrites]
    exact .inl rfl
  | nothing => exact .inr ⟨hk, rfl, rfl⟩
  | stateAndDout x | state _ x _ | dout _ x _ | gfRes p =>
    simp only [applyCommit_stateAndDout, applyCommit_stateWrites, applyCommit_doutWrites, applyCommit_cons,
      applyCommit_nil, applyWrite_gfRes]
    exact .inr ⟨hk, rfl, rfl⟩

theorem complete_hidesRk {p : Pending} (hlegal : LegalCommit p.op p.commit) :
    RkHidden s r (complete p s) (complete p (s.withRk r)) := by
  rw [complete_eq, complete_eq]
  obtain heq | ⟨hks, hrk, heq⟩ := applyCommit_hidesRk hk r (legalCommit_cases hlegal) <;> rw [heq]
  · exact .inl rfl
  · exact .inr ⟨hks, hrk, rfl⟩

theorem internalEdge_hidesRk (hinv : Inv s) : RkHidden s r (internalEdge s) (internalEdge (s.withRk r)) := by
  obtain ⟨hr, h⟩ | ⟨hr, hp, h⟩ | ⟨hr, p, hp, h⟩ := internalEdge_cases s <;> rw [h]
  · exact .inl (internalEdge_low hr)
  · exact .inr ⟨hk, rfl, internalEdge_idle hr hp⟩
  · have h' : internalEdge (s.withRk r) = complete p (s.withRk r) := internalEdge_pending hr hp
    rw [h']
    exact complete_hidesRk hk r (hinv.commitLegal p hp)

/-- No event observes RK: the two machines stop alike, or both go on (70_reset_and_hazards.md R282). -/
theorem step_hidesRk (hinv : Inv s) :
    (step s = .fault .accessDuringReset ∧ step (s.withRk r) = .fault .accessDuringReset) ∨
      StepsHideRk s r (step s) (step (s.withRk r)) := by
  have hevents : (s.withRk r).events = s.events := rfl
  cases he : s.events with
  | nil => exact .inr ⟨_, _, step_nil he, step_nil (hevents.trans he), internalEdge_hidesRk hk r hinv⟩
  | cons e es =>
    have he' := hevents.trans he
    cases e with
    | completion =>
      have hedge := internalEdge_hidesRk (s := { s with events := es }) hk r (hinv.withEvents es)
      exact .inr ⟨_, _, step_completion he, step_completion he', hedge⟩
    | rstLow => exact .inr ⟨_, _, step_rstLow he, step_rstLow he', .inl rfl⟩
    | rstHigh => exact .inr ⟨_, _, step_rstHigh he, step_rstHigh he', .inr ⟨hk, rfl, rfl⟩⟩
    | bus x =>
      cases hr : s.rstN with
      | false => exact .inl ⟨step_bus_low he hr, step_bus_low he' hr⟩
      | true =>
        rw [step_bus he hr, step_bus he' hr, busResponse_withRk hk]
        exact .inr (busEffect_hidesRk (s := s.served es (busResponse x s)) hk r x)

end

end Sys2Proof.Machine

namespace Sys2Proof

open Machine

/-- Settles O53: every event's effect hides RK, so the two machines stop alike, meet, or again differ only in RK. -/
theorem roundKeyStorageIsUnobservableUntilValid : Obligations.RoundKeyStorageIsUnobservableUntilValid := by
  unfold Obligations.RoundKeyStorageIsUnobservableUntilValid
  intro s r hinv hk
  obtain hstop | ⟨t, t', hs, hs', rfl | ⟨hks, hrk, rfl⟩⟩ := step_hidesRk hk r hinv
  · exact .inl hstop
  · exact .inr ⟨_, hs, .inl hs'⟩
  · exact .inr ⟨_, hs, .inr ⟨hks, hrk, hs'⟩⟩

end Sys2Proof
end
